-- ==== Sys2Proof/Word.lean ====
section
/-! DEFINITION. The byte, and the two variants of the engine (spec/00_scope.md R2, R8). -/
namespace Sys2Proof

/-- A byte: an unsigned integer of 8 bits, bit 0 the least significant (00_scope.md R8). -/
abbrev Byte := BitVec 8

/-- The two variants, BLAKE2b (`b`, 0 in `VARIANT`) and BLAKE2s (`s`, 1 in `VARIANT`):
00_scope.md R2, 10_state.md R24. -/
inductive Variant
  | b
  | s
deriving DecidableEq, Repr

end Sys2Proof
end

