-- ==== Sys2Proof/Machine/WordOps.lean ====
section
/-! DEFINITION. The word operations (spec/40_wordops.md R100 to R107).  Addition modulo `2^w`,
exclusive or and complement (R101, R102) are `+`, `^^^` and `~~~` of `BitVec w`. -/
namespace Sys2Proof.Machine

/-- `rotr(x, n)`, rotation right by `n` bits, written as the formula of 40_wordops.md R103. -/
def rotr {w : Nat} (x : BitVec w) (n : Nat) : BitVec w :=
  BitVec.ofNat w (x.toNat / 2 ^ n + x.toNat % 2 ^ n * 2 ^ (w - n))

/-- `load_le(s)`: the first byte is the least significant (40_wordops.md R104). -/
def loadLe : List Byte → Nat
  | [] => 0
  | b :: s => b.toNat + 256 * loadLe s

/-- `store_le(x, n)`: `n` bytes, least significant first (40_wordops.md R105). -/
def storeLe : (x n : Nat) → List Byte
  | _, 0 => []
  | x, n + 1 => BitVec.ofNat 8 x :: storeLe (x / 256) n

/-- `t_lo = t mod 2^w` (40_wordops.md R107). -/
def counterLo (w t : Nat) : BitVec w := BitVec.ofNat w (t % 2 ^ w)

/-- `t_hi = (t >> w) mod 2^w` (40_wordops.md R107). -/
def counterHi (w t : Nat) : BitVec w := BitVec.ofNat w (t / 2 ^ w % 2 ^ w)

/-- `0^n`: a sequence of `n` zero bytes (00_scope.md R8). -/
def zeros (n : Nat) : List Byte := List.replicate n 0#8

/-- The subsequence of `n` bytes that starts at element `a` (`s[a .. a+n]` of 00_scope.md R8). -/
def slice (s : List Byte) (a n : Nat) : List Byte := (s.drop a).take n

end Sys2Proof.Machine
end

