-- ==== Sys2Proof/Config.lean ====
section
/-! DEFINITION. The parameters of the interface (spec/00_scope.md R7).  `NCTX = 1` is the shape of
`State` itself (one context), and `OVERFLOW = wrap` is `Machine.advanceCounter` (log entry 5). -/
namespace Sys2Proof.Config

/-- `MAXLEN`: the largest payload of one command packet in bytes (00_scope.md R7, 30_encoding.md R70). -/
abbrev maxLen : Nat := 65535

/-- The first value that does not fit the node offset field of variant S, `2^NOW` with `NOW = 48`
(00_scope.md R6, 30_encoding.md R80). -/
abbrev nodeOffsetBoundS : Nat := 2 ^ 48

/-- The first value that does not fit a one-byte length field of the INIT payload
(30_encoding.md R72). -/
abbrev byteLengthBound : Nat := 256

end Sys2Proof.Config
end

