-- ==== Sys2Proof/Syntax.lean ====
section
/-! DEFINITION. The abstract commands (spec/30_encoding.md R80), one constructor per row of
spec/opcode_table.json. -/
namespace Sys2Proof

/-- The decoded fields of an INIT packet that both variants share (30_encoding.md R72, R80;
42_parameter_block.md R151). -/
structure InitOperands where
  /-- `DIGEST_LEN`, payload byte 0. -/
  digestLen : Byte
  /-- `KEY_LEN`, payload byte 1; 0 means no key. -/
  keyLen : Byte
  /-- `FANOUT`, payload byte 2. -/
  fanout : Byte
  /-- `DEPTH`, payload byte 3. -/
  depth : Byte
  /-- `LEAF_LEN`, payload bytes 4 to 7. -/
  leafLen : BitVec 32
  /-- `NODE_OFFSET`, payload bytes 8 to 15. -/
  nodeOffset : BitVec 64
  /-- `NODE_DEPTH`, payload byte 16. -/
  nodeDepth : Byte
  /-- `INNER_LEN`, payload byte 17. -/
  innerLen : Byte
  /-- `KEY`, `KEY_LEN` bytes. -/
  key : List Byte
  /-- `SALT`, `SALT_LEN` bytes. -/
  salt : List Byte
  /-- `PERS`, `PERS_LEN` bytes. -/
  pers : List Byte
deriving DecidableEq, Repr

/-- The five commands of the engine (30_encoding.md R80). -/
inductive Instr
  /-- INIT.B: create a BLAKE2b hash (43_sequencer_commands.md R171). -/
  | initB (lastnode : Bool) (op : InitOperands)
  /-- INIT.S: create a BLAKE2s hash (43_sequencer_commands.md R172). -/
  | initS (lastnode : Bool) (op : InitOperands)
  /-- UPDATE: absorb message bytes (43_sequencer_commands.md R174). -/
  | update (data : List Byte)
  /-- FINAL: finish the hash and return the digest (43_sequencer_commands.md R176). -/
  | final
  /-- DLEN: read the configured digest length (43_sequencer_commands.md R178). -/
  | dlen
deriving DecidableEq, Repr

end Sys2Proof
end

