-- ==== Sys2Proof/WellFormed.lean ====
section
/-! DEFINITION. Which abstract commands a packet can spell (spec/30_encoding.md R72, R73, R80, R82).
A well-formed INIT may still be answered CONFIG_ERROR: that is not a matter of form (R82). -/
namespace Sys2Proof

/-- `KEY` has exactly `KEY_LEN` bytes (30_encoding.md R72). -/
def InitOperands.keyFits (op : InitOperands) : Bool := op.key.length == op.keyLen.toNat

/-- The salt's length fits the one-byte field `SALT_LEN` (30_encoding.md R72). -/
def InitOperands.saltFits (op : InitOperands) : Bool := op.salt.length < Config.byteLengthBound

/-- The personalization's length fits the one-byte field `PERS_LEN` (30_encoding.md R72). -/
def InitOperands.persFits (op : InitOperands) : Bool := op.pers.length < Config.byteLengthBound

/-- In variant S bits 63:48 of `NODE_OFFSET` are reserved and zero (30_encoding.md R72, R80). -/
def InitOperands.offsetFitsS (op : InitOperands) : Bool :=
  op.nodeOffset.toNat < Config.nodeOffsetBoundS

/-- The framing conditions of an INIT payload that both variants share. -/
def InitOperands.wellFormed (op : InitOperands) : Bool := op.keyFits && op.saltFits && op.persFits

/-- The commands a packet can spell. -/
def Instr.wellFormed : Instr → Bool
  | .initB _ op => op.wellFormed
  | .initS _ op => op.wellFormed && op.offsetFitsS
  | .update data => data.length ≤ Config.maxLen
  | .final => true
  | .dlen => true

/-- The commands a packet can spell, as a proposition. -/
abbrev Instr.WellFormed (i : Instr) : Prop := i.wellFormed = true

end Sys2Proof
end

