-- ==== Sys2Proof/Decode.lean ====
section
/-! DEFINITION. Packets, the decoder, total on any bytes, and the encoder
(spec/30_encoding.md R70 to R76, R80 to R83). -/
namespace Sys2Proof

open Machine

/-- `OPC` of INIT.B and INIT.S (30_encoding.md R72). -/
def opcInit : Byte := 0x01#8
/-- `OPC` of UPDATE (30_encoding.md R73). -/
def opcUpdate : Byte := 0x02#8
/-- `OPC` of FINAL (30_encoding.md R74). -/
def opcFinal : Byte := 0x03#8
/-- `OPC` of DLEN (30_encoding.md R75). -/
def opcDlen : Byte := 0x04#8

/-- Length of the fixed part of the INIT payload (30_encoding.md R72). -/
def initFixedLen : Nat := 20

/-- A complete command packet: header bytes 0 and 1, and the `LEN` payload bytes
(30_encoding.md R70, R71). -/
structure Packet where
  opc : Byte
  arg : Byte
  payload : List Byte
deriving DecidableEq, Repr

/-- Why a packet spells no command: the rows of 30_encoding.md R81. -/
inductive DecodeError
  /-- `OPC = 0x00` or `OPC` in `0x05..0xFF`. -/
  | reservedOpcode
  /-- A reserved bit of `ARG` is set. -/
  | reservedArg
  /-- INIT with `LEN < 20`. -/
  | initTooShort
  /-- INIT whose `LEN` is not `20 + KEY_LEN + SALT_LEN + PERS_LEN`. -/
  | initLengthMismatch
  /-- INIT.S with payload byte 14 or 15 non-zero. -/
  | nodeOffsetReserved
  /-- FINAL or DLEN with a payload. -/
  | unexpectedPayload
deriving DecidableEq, Repr

/-- The complete packet at the head of the stream and the bytes after it, or none while the packet
is incomplete (30_encoding.md R82, R83). -/
def takePacket : List Byte → Option (Packet × List Byte)
  | opc :: arg :: l0 :: l1 :: rest =>
    if rest.length < loadLe [l0, l1] then none
    else some (⟨opc, arg, rest.take (loadLe [l0, l1])⟩, rest.drop (loadLe [l0, l1]))
  | _ => none

/-- Byte `k` of a payload. -/
def payloadByte (p : List Byte) (k : Nat) : Byte := p.getD k 0#8

/-- The fields of an INIT payload (30_encoding.md R72, R76, R82). -/
def initOperandsOf (p : List Byte) : InitOperands where
  digestLen := payloadByte p 0
  keyLen := payloadByte p 1
  fanout := payloadByte p 2
  depth := payloadByte p 3
  leafLen := BitVec.ofNat 32 (loadLe (slice p 4 4))
  nodeOffset := BitVec.ofNat 64 (loadLe (slice p 8 8))
  nodeDepth := payloadByte p 16
  innerLen := payloadByte p 17
  key := slice p 20 (payloadByte p 1).toNat
  salt := slice p (20 + (payloadByte p 1).toNat) (payloadByte p 18).toNat
  pers := p.drop (20 + (payloadByte p 1).toNat + (payloadByte p 18).toNat)

/-- The length an INIT payload announces by its own fields (30_encoding.md R72). -/
def announcedLen (p : List Byte) : Nat :=
  initFixedLen + (payloadByte p 1).toNat + (payloadByte p 18).toNat + (payloadByte p 19).toNat

/-- The case `OPC = 0x01` of 30_encoding.md R82. -/
def decodeInit (arg : Byte) (p : List Byte) : Except DecodeError Instr :=
  if arg.extractLsb' 2 6 ≠ 0#6 then .error .reservedArg
  else if p.length < initFixedLen then .error .initTooShort
  else if p.length ≠ announcedLen p then .error .initLengthMismatch
  else if arg.getLsbD 0 then
    if payloadByte p 14 ≠ 0#8 ∨ payloadByte p 15 ≠ 0#8 then .error .nodeOffsetReserved
    else .ok (.initS (arg.getLsbD 1) (initOperandsOf p))
  else .ok (.initB (arg.getLsbD 1) (initOperandsOf p))

/-- The decoder of one complete packet (30_encoding.md R82). -/
def decodePacket (k : Packet) : Except DecodeError Instr :=
  if k.opc = opcInit then decodeInit k.arg k.payload
  else if k.opc = opcUpdate then
    if k.arg ≠ 0#8 then .error .reservedArg else .ok (.update k.payload)
  else if k.opc = opcFinal then
    if k.arg ≠ 0#8 then .error .reservedArg
    else if k.payload.length ≠ 0 then .error .unexpectedPayload
    else .ok .final
  else if k.opc = opcDlen then
    if k.arg ≠ 0#8 then .error .reservedArg
    else if k.payload.length ≠ 0 then .error .unexpectedPayload
    else .ok .dlen
  else .error .reservedOpcode

/-- What the head of the command stream holds. -/
inductive Decoded
  /-- No complete packet: the engine is held (30_encoding.md R83). -/
  | held
  /-- A complete packet that spells no command, its `OPC`, why, and the bytes after it
  (30_encoding.md R81). -/
  | bad (opc : Byte) (why : DecodeError) (rest : List Byte)
  /-- A complete packet that spells a command, and the bytes after it. -/
  | command (i : Instr) (rest : List Byte)
deriving DecidableEq, Repr

/-- The decoder, total on any byte sequence (30_encoding.md R82). -/
def decode (cin : List Byte) : Decoded :=
  match takePacket cin with
  | none => .held
  | some (k, rest) =>
    match decodePacket k with
    | .ok i => .command i rest
    | .error why => .bad k.opc why rest

/-- The bytes of a packet: the header `OPC ARG LEN[7:0] LEN[15:8]`, then the payload
(30_encoding.md R71). -/
def Packet.bytes (k : Packet) : List Byte :=
  k.opc :: k.arg :: (storeLe k.payload.length 2 ++ k.payload)

/-- `ARG` of INIT: bit 0 the variant, bit 1 the last-node flag (30_encoding.md R72). -/
def initArg (v : Variant) (lastnode : Bool) : Byte :=
  (match v with | .b => 0#8 | .s => 1#8) + (if lastnode then 2#8 else 0#8)

/-- The payload of INIT (30_encoding.md R72). -/
def initPayload (op : InitOperands) : List Byte :=
  [op.digestLen, op.keyLen, op.fanout, op.depth] ++ storeLe op.leafLen.toNat 4
    ++ storeLe op.nodeOffset.toNat 8
    ++ [op.nodeDepth, op.innerLen, BitVec.ofNat 8 op.salt.length, BitVec.ofNat 8 op.pers.length]
    ++ op.key ++ op.salt ++ op.pers

/-- The packet of a command (30_encoding.md R72 to R75). -/
def packetOf : Instr → Packet
  | .initB lastnode op => ⟨opcInit, initArg .b lastnode, initPayload op⟩
  | .initS lastnode op => ⟨opcInit, initArg .s lastnode, initPayload op⟩
  | .update data => ⟨opcUpdate, 0#8, data⟩
  | .final => ⟨opcFinal, 0#8, []⟩
  | .dlen => ⟨opcDlen, 0#8, []⟩

/-- The encoder. -/
def encode (i : Instr) : List Byte := (packetOf i).bytes

/-- The bytes of the instruction whose bits are `w` in the numbering of spec/opcode_table.json:
the header word in little-endian order (30_encoding.md R71), then as many zero bytes as its `LEN`
field asks for (log entry 10). -/
def tablePacket (nbits w : Nat) : List Byte :=
  storeLe (w % 2 ^ nbits) (max 4 (nbits / 8)) ++ zeros (w % 2 ^ nbits / 2 ^ 16 % 2 ^ 16)

/-- The instruction the decoder reads from a word of spec/opcode_table.json. -/
def decodeTableWord (nbits w : Nat) : Option Instr :=
  match decode (tablePacket nbits w) with
  | .command i _ => some i
  | _ => none

end Sys2Proof
end

