-- ==== Sys2Proof/Machine/Flags.lean ====
section
/-! DEFINITION. The engine has no condition codes; its two flags are inputs of F
(spec/10_state.md R32, spec/41_compression.md R127). -/
namespace Sys2Proof.Machine

/-- The last-block flag: `v[14]` is inverted when `last` (41_compression.md R127). -/
def applyLastBlock {w : Nat} (last : Bool) (x : BitVec w) : BitVec w := if last then ~~~x else x

/-- The last-node flag: `v[15]` is inverted when `last` and `lastnode`; it has no effect without
`last` (41_compression.md R127). -/
def applyLastNode {w : Nat} (last lastnode : Bool) (x : BitVec w) : BitVec w :=
  if last && lastnode then ~~~x else x

end Sys2Proof.Machine
end

