-- ==== Sys2Proof/Machine/Params.lean ====
section
/-! DEFINITION. The parameters of the algorithm, fixed by the variant (spec/00_scope.md R6), and the
parametrized lane both variants are instances of (spec/40_wordops.md R100). -/
namespace Sys2Proof

/-- `w`: word width in bits. -/
def Variant.w : Variant → Nat
  | .b => 64
  | .s => 32

/-- `WB`: bytes per word. -/
def Variant.wb : Variant → Nat
  | .b => 8
  | .s => 4

/-- `BB`: block length and block buffer capacity in bytes. -/
def Variant.bb : Variant → Nat
  | .b => 128
  | .s => 64

/-- `DMAX`: largest digest length in bytes. -/
def Variant.dmax : Variant → Nat
  | .b => 64
  | .s => 32

/-- `KMAX`: largest key length in bytes. -/
def Variant.kmax : Variant → Nat
  | .b => 64
  | .s => 32

/-- `SW`: width of the salt field and of the personalization field in bytes. -/
def Variant.sw : Variant → Nat
  | .b => 16
  | .s => 8

/-- `CW`: byte counter width in bits. -/
def Variant.cw : Variant → Nat
  | .b => 128
  | .s => 64

namespace Machine

/-- What distinguishes the two instances of the compression function at word width `w`: "word width,
round count, and rotation constants" (40_wordops.md R100), and the IV. -/
structure Lane (w : Nat) where
  /-- `NR`: number of rounds of F. -/
  rounds : Nat
  /-- `R1`, the first rotation amount of G. -/
  r1 : Nat
  /-- `R2`. -/
  r2 : Nat
  /-- `R3`. -/
  r3 : Nat
  /-- `R4`. -/
  r4 : Nat
  /-- The IV of the variant. -/
  iv : Vector (BitVec w) 8
deriving DecidableEq, Repr

end Machine

end Sys2Proof
end

