-- ==== Sys2Proof/Machine/Tables.lean ====
section
/-! DEFINITION. The constant tables (spec/10_state.md R33; spec/41_compression.md R120 to R123).  The
spec supplies them from general knowledge (log entry 6). -/
namespace Sys2Proof.Machine

/-- The IV of variant B (41_compression.md R120). -/
def ivB : Vector (BitVec 64) 8 :=
  #v[0x6A09E667F3BCC908#64, 0xBB67AE8584CAA73B#64, 0x3C6EF372FE94F82B#64, 0xA54FF53A5F1D36F1#64,
     0x510E527FADE682D1#64, 0x9B05688C2B3E6C1F#64, 0x1F83D9ABFB41BD6B#64, 0x5BE0CD19137E2179#64]

/-- The IV of variant S (41_compression.md R121). -/
def ivS : Vector (BitVec 32) 8 :=
  #v[0x6A09E667#32, 0xBB67AE85#32, 0x3C6EF372#32, 0xA54FF53A#32,
     0x510E527F#32, 0x9B05688C#32, 0x1F83D9AB#32, 0x5BE0CD19#32]

/-- SIGMA: row `r`, position `k` (41_compression.md R122). -/
def sigma : Vector (Vector (Fin 16) 16) 10 :=
  #v[#v[0, 1, 2, 3, 4, 5, 6, 7, 8, 9, 10, 11, 12, 13, 14, 15],
     #v[14, 10, 4, 8, 9, 15, 13, 6, 1, 12, 0, 2, 11, 7, 5, 3],
     #v[11, 8, 12, 0, 5, 2, 15, 13, 10, 14, 3, 6, 7, 1, 9, 4],
     #v[7, 9, 3, 1, 13, 12, 11, 14, 2, 6, 5, 10, 4, 0, 15, 8],
     #v[9, 0, 5, 7, 2, 4, 10, 15, 14, 1, 11, 12, 6, 8, 3, 13],
     #v[2, 12, 6, 10, 0, 11, 8, 3, 4, 13, 7, 5, 15, 14, 1, 9],
     #v[12, 5, 1, 15, 14, 13, 4, 10, 0, 7, 6, 3, 9, 2, 8, 11],
     #v[13, 11, 7, 14, 12, 1, 3, 9, 5, 0, 15, 4, 8, 6, 2, 10],
     #v[6, 15, 14, 9, 11, 3, 0, 8, 12, 2, 13, 7, 1, 4, 10, 5],
     #v[10, 2, 8, 4, 7, 6, 1, 5, 15, 11, 9, 14, 3, 12, 13, 0]]

/-- The row of SIGMA that round `i` uses, `SIGMA[i mod 10]` (41_compression.md R122). -/
def sigmaRow (i : Nat) : Vector (Fin 16) 16 := sigma[i % 10]'(Nat.mod_lt _ (by decide))

/-- One call of G in a round: the four positions of `v` it works on, and the positions of the row of
SIGMA that select `x` and `y` (41_compression.md R123). -/
structure GCall where
  a : Fin 16
  b : Fin 16
  c : Fin 16
  d : Fin 16
  x : Fin 16
  y : Fin 16
deriving DecidableEq, Repr

/-- The four column calls, `j = 0 .. 3` (41_compression.md R123). -/
def columnCalls : List GCall :=
  [⟨0, 4, 8, 12, 0, 1⟩, ⟨1, 5, 9, 13, 2, 3⟩, ⟨2, 6, 10, 14, 4, 5⟩, ⟨3, 7, 11, 15, 6, 7⟩]

/-- The four diagonal calls, `j = 4 .. 7` (41_compression.md R123). -/
def diagonalCalls : List GCall :=
  [⟨0, 5, 10, 15, 8, 9⟩, ⟨1, 6, 11, 12, 10, 11⟩, ⟨2, 7, 8, 13, 12, 13⟩, ⟨3, 4, 9, 14, 14, 15⟩]

/-- The instance for variant B: 12 rounds, rotations 32, 24, 16, 63 (00_scope.md R6). -/
def laneB : Lane 64 := ⟨12, 32, 24, 16, 63, ivB⟩

/-- The instance for variant S: 10 rounds, rotations 16, 12, 8, 7 (00_scope.md R6). -/
def laneS : Lane 32 := ⟨10, 16, 12, 8, 7, ivS⟩

end Sys2Proof.Machine
end

