-- ==== Sys2Proof/Machine/Compress.lean ====
section
/-! DEFINITION. The mixing function G and the compression function F, once for both word widths
(spec/41_compression.md R123 to R130). -/
namespace Sys2Proof.Machine

/-- The four words one call of G reads and writes. -/
structure Quad (w : Nat) where
  a : BitVec w
  b : BitVec w
  c : BitVec w
  d : BitVec w
deriving DecidableEq, Repr

/-- The eight steps of G on its four words (41_compression.md R124). -/
def mixWords {w : Nat} (L : Lane w) (q : Quad w) (x y : BitVec w) : Quad w :=
  let a1 := q.a + q.b + x
  let d1 := rotr (q.d ^^^ a1) L.r1
  let c1 := q.c + d1
  let b1 := rotr (q.b ^^^ c1) L.r2
  let a2 := a1 + b1 + y
  let d2 := rotr (d1 ^^^ a2) L.r3
  let c2 := c1 + d2
  let b2 := rotr (b1 ^^^ c2) L.r4
  ⟨a2, b2, c2, d2⟩

/-- `G(a, b, c, d, x, y)` on the working vector: reads and writes the call's four positions and
nothing else; `row` selects its two message words (41_compression.md R123, R124). -/
def mixAt {w : Nat} (L : Lane w) (m : Vector (BitVec w) 16) (row : Vector (Fin 16) 16) (g : GCall)
    (v : Vector (BitVec w) 16) : Vector (BitVec w) 16 :=
  let q := mixWords L ⟨v[g.a], v[g.b], v[g.c], v[g.d]⟩ m[row[g.x]] m[row[g.y]]
  (((v.set g.a q.a).set g.b q.b).set g.c q.c).set g.d q.d

/-- A sequence of calls of G, first call first. -/
def mixCalls {w : Nat} (L : Lane w) (m : Vector (BitVec w) 16) (row : Vector (Fin 16) 16) :
    List GCall → Vector (BitVec w) 16 → Vector (BitVec w) 16
  | [], v => v
  | g :: gs, v => mixCalls L m row gs (mixAt L m row g v)

/-- Round `i`: four column calls, then four diagonal calls, with row `i mod 10` of SIGMA
(41_compression.md R122, R123). -/
def roundAt {w : Nat} (L : Lane w) (m : Vector (BitVec w) 16) (i : Nat) (v : Vector (BitVec w) 16) :
    Vector (BitVec w) 16 :=
  mixCalls L m (sigmaRow i) (columnCalls ++ diagonalCalls) v

/-- The working vector after rounds `0 .. n-1` (41_compression.md R128). -/
def afterRounds {w : Nat} (L : Lane w) (m v : Vector (BitVec w) 16) : Nat → Vector (BitVec w) 16
  | 0 => v
  | n + 1 => roundAt L m n (afterRounds L m v n)

/-- Message word `i` of a block, `load_le` of bytes `i*WB .. i*WB + WB - 1`
(41_compression.md R126). -/
def messageWord (w : Nat) (block : List Byte) (i : Nat) : BitVec w :=
  BitVec.ofNat w (loadLe (slice block (i * (w / 8)) (w / 8)))

/-- The sixteen message words of a block (41_compression.md R126). -/
def messageWords (w : Nat) (block : List Byte) : Vector (BitVec w) 16 :=
  let m := messageWord w block
  #v[m 0, m 1, m 2, m 3, m 4, m 5, m 6, m 7, m 8, m 9, m 10, m 11, m 12, m 13, m 14, m 15]

/-- The initial working vector (41_compression.md R127). -/
def workingVector {w : Nat} (L : Lane w) (h : Vector (BitVec w) 8) (t : Nat) (last lastnode : Bool) :
    Vector (BitVec w) 16 :=
  #v[h[0], h[1], h[2], h[3], h[4], h[5], h[6], h[7],
     L.iv[0], L.iv[1], L.iv[2], L.iv[3],
     L.iv[4] ^^^ counterLo w t, L.iv[5] ^^^ counterHi w t,
     applyLastBlock last L.iv[6], applyLastNode last lastnode L.iv[7]]

/-- `h'[i] = h[i] xor v[i] xor v[i+8]` (41_compression.md R128). -/
def foldVector {w : Nat} (h : Vector (BitVec w) 8) (v : Vector (BitVec w) 16) : Vector (BitVec w) 8 :=
  #v[h[0] ^^^ v[0] ^^^ v[8], h[1] ^^^ v[1] ^^^ v[9], h[2] ^^^ v[2] ^^^ v[10],
     h[3] ^^^ v[3] ^^^ v[11], h[4] ^^^ v[4] ^^^ v[12], h[5] ^^^ v[5] ^^^ v[13],
     h[6] ^^^ v[6] ^^^ v[14], h[7] ^^^ v[7] ^^^ v[15]]

/-- `F(h, block, t, last, lastnode)` (41_compression.md R128). -/
def compress {w : Nat} (L : Lane w) (h : Vector (BitVec w) 8) (block : List Byte) (t : Nat)
    (last lastnode : Bool) : Vector (BitVec w) 8 :=
  foldVector h (afterRounds L (messageWords w block) (workingVector L h t last lastnode) L.rounds)

end Sys2Proof.Machine
end

