-- ==== Sys2Proof/Machine/Operands.lean ====
section
/-! DEFINITION. The operands of INIT: their checks, the parameter block of both variants, and its
folding into the IV (spec/42_parameter_block.md R150 to R156). -/
namespace Sys2Proof.Machine

/-- The checks of 42_parameter_block.md R154, with the limits of the variant the packet names: true
when none of the four conditions for `ConfigError` holds. -/
def configOk (v : Variant) (op : InitOperands) : Bool :=
  1 ≤ op.digestLen.toNat && op.digestLen.toNat ≤ v.dmax && op.keyLen.toNat ≤ v.kmax
    && op.salt.length ≤ v.sw && op.pers.length ≤ v.sw

/-- A salt or personalization fills its field from the left; zero bytes follow
(42_parameter_block.md R155). -/
def padField (n : Nat) (s : List Byte) : List Byte := s ++ zeros (n - s.length)

/-- The parameter block of variant B, 64 bytes (42_parameter_block.md R152). -/
def paramBlockB (op : InitOperands) : List Byte :=
  [op.digestLen, op.keyLen, op.fanout, op.depth] ++ storeLe op.leafLen.toNat 4
    ++ storeLe op.nodeOffset.toNat 8 ++ [op.nodeDepth, op.innerLen] ++ zeros 14
    ++ padField 16 op.salt ++ padField 16 op.pers

/-- The parameter block of variant S, 32 bytes (42_parameter_block.md R153). -/
def paramBlockS (op : InitOperands) : List Byte :=
  [op.digestLen, op.keyLen, op.fanout, op.depth] ++ storeLe op.leafLen.toNat 4
    ++ storeLe op.nodeOffset.toNat 6 ++ [op.nodeDepth, op.innerLen]
    ++ padField 8 op.salt ++ padField 8 op.pers

/-- Word `i` of the parameter block (42_parameter_block.md R156). -/
def paramWord (w : Nat) (P : List Byte) (i : Nat) : BitVec w :=
  BitVec.ofNat w (loadLe (slice P (i * (w / 8)) (w / 8)))

/-- `h0[i] = IV[i] xor pw[i]` (42_parameter_block.md R156). -/
def foldParams {w : Nat} (L : Lane w) (P : List Byte) : Vector (BitVec w) 8 :=
  #v[L.iv[0] ^^^ paramWord w P 0, L.iv[1] ^^^ paramWord w P 1, L.iv[2] ^^^ paramWord w P 2,
     L.iv[3] ^^^ paramWord w P 3, L.iv[4] ^^^ paramWord w P 4, L.iv[5] ^^^ paramWord w P 5,
     L.iv[6] ^^^ paramWord w P 6, L.iv[7] ^^^ paramWord w P 7]

/-- The bytes a keyed INIT stages as the first block, `key || 0^(BB - key_len)`, and `0^BB` without
a key (43_sequencer_commands.md R173). -/
def initialBlock (v : Variant) (op : InitOperands) : List Byte :=
  if op.keyLen = 0#8 then zeros v.bb else op.key ++ zeros (v.bb - op.key.length)

/-- `fill` after INIT: `BB` with a key, 0 without (43_sequencer_commands.md R173). -/
def initialFill (v : Variant) (op : InitOperands) : Byte :=
  if op.keyLen = 0#8 then 0#8 else BitVec.ofNat 8 v.bb

end Sys2Proof.Machine
end

