-- ==== Sys2Proof/Machine/Serialize.lean ====
section
/-! DEFINITION. The digest serializer (spec/44_digest_serializer.md R200). -/
namespace Sys2Proof.Machine

/-- `serialize(h, n)`: every word little-endian, word 0 first, cut to `n` bytes
(44_digest_serializer.md R200). -/
def serialize {w : Nat} (h : Vector (BitVec w) 8) (n : Nat) : List Byte :=
  (h.toList.flatMap fun x => storeLe x.toNat (w / 8)).take n

end Sys2Proof.Machine
end

