-- ==== Sys2Proof/Machine/State.lean ====
section
/-! DEFINITION. The state of the engine as plain data (spec/10_state.md R20 to R38), the reasons a
step can stop, and the state after reset. -/
namespace Sys2Proof.Machine

/-- `PHASE` (10_state.md R25). -/
inductive Phase
  | idle
  | ready
  | finalized
deriving DecidableEq, Repr

/-- The engine's whole state.  The register widths are those of the hardware (10_state.md R20, R26,
R27); variant S uses the low parts and never reads the rest (log entry 2). -/
structure State where
  /-- `PHASE` (10_state.md R25). -/
  phase : Phase
  /-- `VARIANT` (10_state.md R24). -/
  variant : Variant
  /-- `DIGLEN`, the configured digest length in bytes (10_state.md R29). -/
  diglen : Byte
  /-- `LASTNODE` (10_state.md R30). -/
  lastnode : Bool
  /-- The chaining state `h[0..8]` (10_state.md R20). -/
  h : Vector (BitVec 64) 8
  /-- The byte counter `t` (10_state.md R26). -/
  t : BitVec 128
  /-- The block buffer `buf` (10_state.md R27). -/
  buf : Vector Byte 128
  /-- `fill`, the fill length of the block buffer (10_state.md R28). -/
  fill : Byte
  /-- `CIN`: bytes the host sent that the engine has not consumed, oldest first (10_state.md R36). -/
  cin : List Byte
  /-- `ROUT`: bytes the engine emitted that the host has not taken, oldest first (10_state.md R36). -/
  rout : List Byte
deriving DecidableEq, Repr

/-- Why a step can stop.  The engine itself never does (60_exceptions.md R227). -/
inductive Fault
  /-- A write of the block buffer would reach an index of `BB` or above.  20_memory.md R53 says it
  cannot happen, and no state that keeps `State.Inv` raises it.  Raised by UPDATE and FINAL in a
  state with `fill > BB`, and by an INIT whose key is longer than a block, which no packet decodes
  to without a CONFIG_ERROR.  Safe: the model stops where the spec gives no behaviour. -/
  | bufferRange
deriving DecidableEq, Repr

/-- Why an instruction has no meaning. -/
inductive Refusal
  /-- An instruction that has no meaning yet, by its mnemonic; no arm of `exec` answers it.
  Safe: the model stops. -/
  | notModelled (mnemonic : String)
deriving DecidableEq, Repr

/-- The engine right after reset: `PHASE = IDLE` and both streams empty (10_state.md R37).  The spec
leaves every other register unspecified (R38); the values here are the model's choice (log
entry 1). -/
def State.reset : State where
  phase := .idle
  variant := .b
  diglen := 0#8
  lastnode := false
  h := Vector.replicate 8 0#64
  t := 0#128
  buf := Vector.replicate 128 0#8
  fill := 0#8
  cin := []
  rout := []

end Sys2Proof.Machine
end

