-- ==== Sys2Proof/Machine/Ops.lean ====
section
/-! DEFINITION. The named operations over the registers, the block buffer and the response stream.
Every read and write of a register that depends on the variant goes through one of them. -/
namespace Sys2Proof.Machine

/-- Consume bytes of `CIN`: what is left. -/
def State.withCin (s : State) (cin : List Byte) : State := { s with cin := cin }

/-- Append bytes to `ROUT`. -/
def State.emit (s : State) (bytes : List Byte) : State := { s with rout := s.rout ++ bytes }

/-- Write `PHASE`. -/
def State.withPhase (s : State) (p : Phase) : State := { s with phase := p }

/-- Write `VARIANT`, `DIGLEN` and `LASTNODE`: the registers only INIT writes. -/
def State.withConfig (s : State) (v : Variant) (diglen : Byte) (lastnode : Bool) : State :=
  { s with variant := v, diglen := diglen, lastnode := lastnode }

/-- Write the chaining state and the byte counter. -/
def State.withChain (s : State) (h : Vector (BitVec 64) 8) (t : BitVec 128) : State :=
  { s with h := h, t := t }

/-- Write the block buffer and its fill length. -/
def State.withBlock (s : State) (buf : Vector Byte 128) (fill : Byte) : State :=
  { s with buf := buf, fill := fill }

/-! ### The chaining state and the byte counter (10_state.md R20, R26; log entry 2) -/

/-- The eight words of width `w` that the registers hold in their low bits (10_state.md R20). -/
def lowWords (w : Nat) (h : Vector (BitVec 64) 8) : Vector (BitVec w) 8 :=
  #v[h[0].setWidth w, h[1].setWidth w, h[2].setWidth w, h[3].setWidth w,
     h[4].setWidth w, h[5].setWidth w, h[6].setWidth w, h[7].setWidth w]

/-- Write the low `w` bits of a register; the bits above keep their value (log entry 2). -/
def setLowWord {w : Nat} (x : BitVec w) (old : BitVec 64) : BitVec 64 :=
  old >>> w <<< w ||| x.setWidth 64

/-- Write the low `w` bits of all eight registers at once (41_compression.md R128). -/
def setLowWords {w : Nat} (x : Vector (BitVec w) 8) (old : Vector (BitVec 64) 8) :
    Vector (BitVec 64) 8 :=
  #v[setLowWord x[0] old[0], setLowWord x[1] old[1], setLowWord x[2] old[2], setLowWord x[3] old[3],
     setLowWord x[4] old[4], setLowWord x[5] old[5], setLowWord x[6] old[6], setLowWord x[7] old[7]]

/-- The value of the byte counter: its low `CW` bits (10_state.md R26). -/
def counterOf (v : Variant) (t : BitVec 128) : Nat := t.toNat % 2 ^ v.cw

/-- Write the low `CW` bits of the byte counter, modulo `2^CW`; the bits above keep their value
(10_state.md R26; log entry 2). -/
def setCounter (v : Variant) (x : Nat) (old : BitVec 128) : BitVec 128 :=
  old >>> v.cw <<< v.cw ||| BitVec.ofNat 128 (x % 2 ^ v.cw)

/-- `t <- (t + n) mod 2^CW` (43_sequencer_commands.md R174, R176; log entry 5). -/
def advanceCounter (v : Variant) (n : Nat) (t : BitVec 128) : BitVec 128 :=
  setCounter v (counterOf v t + n) t

/-! ### The block buffer (20_memory.md R52, R53; 43_sequencer_commands.md R182) -/

/-- `MemRead(a, n)` (00_scope.md R10). -/
def memRead (buf : Vector Byte 128) (a n : Nat) : List Byte := slice buf.toList a n

/-- The block F reads: the `BB` bytes of the buffer (41_compression.md R126). -/
def blockOf (v : Variant) (buf : Vector Byte 128) : List Byte := memRead buf 0 v.bb

/-- Byte `i` of the buffer (20_memory.md R52): the model's read of one byte. -/
def byteAt (buf : Vector Byte 128) (i : Nat) : Byte := buf.toList.getD i 0#8

/-- Write the bytes one after another, the first at index `a`. -/
def putBytes (buf : Vector Byte 128) (a : Nat) : List Byte → Vector Byte 128
  | [] => buf
  | b :: bs => putBytes (buf.setIfInBounds a b) (a + 1) bs

/-- `MemWrite(a, n, s)` with `n = len(s)` (00_scope.md R10), none where it would leave the `BB` bytes
of the variant: 20_memory.md R53 says that cannot happen (log entry 4). -/
def memWrite (v : Variant) (buf : Vector Byte 128) (a : Nat) (s : List Byte) :
    Option (Vector Byte 128) :=
  if a + s.length ≤ v.bb then some (putBytes buf a s) else none

/-! ### F, the parameter block and the serializer on the registers -/

/-- `F(h, buf, t, last, lastnode)` written back to the register file: all eight words at once
(41_compression.md R128). -/
def compressRegs (v : Variant) (h : Vector (BitVec 64) 8) (buf : Vector Byte 128) (t : BitVec 128)
    (last lastnode : Bool) : Vector (BitVec 64) 8 :=
  match v with
  | .b => setLowWords (compress laneB (lowWords 64 h) (blockOf .b buf) (counterOf .b t) last lastnode) h
  | .s => setLowWords (compress laneS (lowWords 32 h) (blockOf .s buf) (counterOf .s t) last lastnode) h

/-- The initial chaining state written to the register file (42_parameter_block.md R156). -/
def initialRegs (v : Variant) (op : InitOperands) (h : Vector (BitVec 64) 8) : Vector (BitVec 64) 8 :=
  match v with
  | .b => setLowWords (foldParams laneB (paramBlockB op)) h
  | .s => setLowWords (foldParams laneS (paramBlockS op)) h

/-- The digest the register file gives (44_digest_serializer.md R200). -/
def digestOf (v : Variant) (h : Vector (BitVec 64) 8) (n : Nat) : List Byte :=
  match v with
  | .b => serialize (lowWords 64 h) n
  | .s => serialize (lowWords 32 h) n

/-! ### Responses (30_encoding.md R77, R78) -/

/-- The four statuses (30_encoding.md R78). -/
inductive Status
  | ok
  | configError
  | stateError
  | badCommand
deriving DecidableEq, Repr

/-- The code of a status (30_encoding.md R78). -/
def statusCode : Status → Byte
  | .ok => 0x00#8
  | .configError => 0x01#8
  | .stateError => 0x02#8
  | .badCommand => 0x03#8

/-- A response packet: `STATUS ROPC RLEN[7:0] RLEN[15:8]`, then the payload (30_encoding.md R77). -/
def response (st : Status) (opc : Byte) (payload : List Byte) : List Byte :=
  statusCode st :: opc :: (storeLe payload.length 2 ++ payload)

/-- `respond(OK, payload)`: complete the command and emit its response (30_encoding.md R77). -/
def respondOk (opc : Byte) (payload : List Byte) (s : State) : Host.Outcome State Fault Refusal :=
  .next (s.emit (response .ok opc payload))

/-- `raise E`: the one way an error is taken.  No register is saved or changed, there is no handler
and nothing to return from; the only effect is a response with the status of that name and no
payload (60_exceptions.md R210, R218, R219; 30_encoding.md R77). -/
def raiseError (st : Status) (opc : Byte) (s : State) : Host.Outcome State Fault Refusal :=
  .next (s.emit (response st opc []))

end Sys2Proof.Machine
end

