-- ==== Sys2Proof/Machine/Dlen.lean ====
section
/-! DEFINITION. DLEN (spec/43_sequencer_commands.md R178). -/
namespace Sys2Proof.Machine

/-- DLEN (43_sequencer_commands.md R178): one byte, the value of `DIGLEN`, in READY and in FINALIZED;
STATE_ERROR in IDLE. -/
def execDlen (s : State) : Host.Outcome State Fault Refusal :=
  if s.phase = .idle then raiseError .stateError opcDlen s
  else respondOk opcDlen [s.diglen] s

end Sys2Proof.Machine
end

