-- ==== Sys2Proof/Machine/Final.lean ====
section
/-! DEFINITION. FINAL (spec/43_sequencer_commands.md R176). -/
namespace Sys2Proof.Machine

/-- FINAL (43_sequencer_commands.md R176): the counter advances by `fill`, the buffer is zero-padded,
F runs once with `last = true`, and the digest is the response. -/
def execFinal (s : State) : Host.Outcome State Fault Refusal :=
  if s.phase = .ready then
    let t := advanceCounter s.variant s.fill.toNat s.t
    match memWrite s.variant s.buf s.fill.toNat (zeros (s.variant.bb - s.fill.toNat)) with
    | some buf =>
      let h := compressRegs s.variant s.h buf t true s.lastnode
      respondOk opcFinal (digestOf s.variant h s.diglen.toNat)
        (((s.withChain h t).withBlock buf s.fill).withPhase .finalized)
    | none => .fault .bufferRange
  else raiseError .stateError opcFinal s

end Sys2Proof.Machine
end

