-- ==== Sys2Proof/Machine/Init.lean ====
section
/-! DEFINITION. INIT.B and INIT.S (spec/43_sequencer_commands.md R171 to R173). -/
namespace Sys2Proof.Machine

/-- `do_init` (43_sequencer_commands.md R173): legal in every phase; the checks come before any
register is written; the key block is staged, not compressed. -/
def doInit (v : Variant) (lastnode : Bool) (op : InitOperands) (s : State) :
    Host.Outcome State Fault Refusal :=
  if configOk v op then
    match memWrite v s.buf 0 (initialBlock v op) with
    | some buf =>
      respondOk opcInit []
        ((((s.withConfig v op.digestLen lastnode).withChain (initialRegs v op s.h)
          (setCounter v 0 s.t)).withBlock buf (initialFill v op)).withPhase .ready)
    | none => .fault .bufferRange
  else raiseError .configError opcInit s

/-- INIT.B (43_sequencer_commands.md R171). -/
def execInitB (lastnode : Bool) (op : InitOperands) (s : State) : Host.Outcome State Fault Refusal :=
  doInit .b lastnode op s

/-- INIT.S (43_sequencer_commands.md R172). -/
def execInitS (lastnode : Bool) (op : InitOperands) (s : State) : Host.Outcome State Fault Refusal :=
  doInit .s lastnode op s

end Sys2Proof.Machine
end

