-- ==== Sys2Proof/Machine/Update.lean ====
section
/-! DEFINITION. UPDATE (spec/43_sequencer_commands.md R174). -/
namespace Sys2Proof.Machine

/-- Start a new block: the counter advances by `BB`, then F runs on the full buffer with
`last = false`, then `fill <- 0`; the old bytes stay in `buf` (43_sequencer_commands.md R174). -/
def State.startBlock (s : State) : State :=
  let t := advanceCounter s.variant s.variant.bb s.t
  (s.withChain (compressRegs s.variant s.h s.buf t false false) t).withBlock s.buf 0#8

/-- One pass of the loop of UPDATE: a full buffer is compressed only now that one more byte has come
(43_sequencer_commands.md R174); none where the write would leave the buffer (log entry 4). -/
def absorbByte (b : Byte) (s : State) : Option State :=
  let s1 := if s.fill.toNat = s.variant.bb then s.startBlock else s
  match memWrite s1.variant s1.buf s1.fill.toNat [b] with
  | some buf => some (s1.withBlock buf (s1.fill + 1#8))
  | none => none

/-- The loop of UPDATE over the payload, first byte first (43_sequencer_commands.md R174). -/
def absorb : List Byte → State → Option State
  | [], s => some s
  | b :: bs, s =>
    match absorbByte b s with
    | some s' => absorb bs s'
    | none => none

/-- UPDATE (43_sequencer_commands.md R174): STATE_ERROR outside READY, a zero-length payload
included. -/
def execUpdate (data : List Byte) (s : State) : Host.Outcome State Fault Refusal :=
  if s.phase = .ready then
    match absorb data s with
    | some s' => respondOk opcUpdate [] s'
    | none => .fault .bufferRange
  else raiseError .stateError opcUpdate s

end Sys2Proof.Machine
end

