-- ==== Sys2Proof/Machine/Dispatch.lean ====
section
/-! DEFINITION. One arm per command (spec/30_encoding.md R80). -/
namespace Sys2Proof.Machine

/-- The effect of a decoded command, its packet already consumed (30_encoding.md R82). -/
def exec (i : Instr) (s : State) : Host.Outcome State Fault Refusal :=
  match i with
  | .initB lastnode op => Sys2Proof.Machine.execInitB lastnode op s
  | .initS lastnode op => Sys2Proof.Machine.execInitS lastnode op s
  | .update data => Sys2Proof.Machine.execUpdate data s
  | .final => Sys2Proof.Machine.execFinal s
  | .dlen => Sys2Proof.Machine.execDlen s

end Sys2Proof.Machine
end

