-- ==== Sys2Proof/Machine/HostPort.lean ====
section
/-! DEFINITION. What the host does to the engine between two steps (spec/20_memory.md R51,
spec/70_reset_and_hazards.md R240, R241, R248).  No step calls these: they are the other agent's
(log entry 8). -/
namespace Sys2Proof.Machine

/-- The host writes bytes to `CIN`: they are delivered once, in order, unchanged (20_memory.md R51). -/
def State.hostWrite (s : State) (bytes : List Byte) : State := { s with cin := s.cin ++ bytes }

/-- The host takes `n` bytes from `ROUT`, oldest first: what it gets (20_memory.md R51). -/
def State.hostTaken (s : State) (n : Nat) : List Byte := s.rout.take n

/-- The host takes `n` bytes from `ROUT`: what is left (20_memory.md R51). -/
def State.hostTake (s : State) (n : Nat) : State := { s with rout := s.rout.drop n }

/-- The reset event (70_reset_and_hazards.md R240).  Its effect does not depend on the state before
it.  `left` is any state at all: the registers other than `PHASE` and the streams are unspecified
after reset, so they take the values `left` gives, and a statement holds for every `left`. -/
def State.resetEvent (left : State) : State := { left with phase := .idle, cin := [], rout := [] }

end Sys2Proof.Machine
end

