-- ==== Sys2Proof/Machine/Step.lean ====
section
/-! DEFINITION. One step: the engine takes the oldest complete packet from `CIN`, performs it
atomically and emits its one response (spec/20_memory.md R58, R59; spec/30_encoding.md R82, R83). -/
namespace Sys2Proof.Machine

/-- One step.  With no complete packet at the head of `CIN` the engine is held: it does nothing
(30_encoding.md R83; log entry 3).  A packet that spells no command is consumed and answered
BAD_COMMAND (60_exceptions.md R213). -/
def step (s : State) : Host.Outcome State Fault Refusal :=
  match decode s.cin with
  | .held => .next s
  | .bad opc _ rest => raiseError .badCommand opc (s.withCin rest)
  | .command i rest => exec i (s.withCin rest)

/-- The state with an instruction of spec/opcode_table.json at the head of `CIN`, which is where the
next step takes it from (log entries 7 and 10). -/
def State.withFetchWord (s : State) (nbits w : Nat) : State :=
  s.withCin (tablePacket nbits w ++ s.cin)

end Sys2Proof.Machine
end

