-- ==== Sys2Proof/Safety.lean ====
section
/-! DEFINITION. What the claims are stated in: the invariants of the engine (spec/10_state.md R39), the
part of the state the engine uses, the tables of the spec that claims quote, and the hash a whole
command sequence computes (spec/43_sequencer_commands.md R179). -/
namespace Sys2Proof.Machine

/-! ### Invariants -/

/-- The invariants of 10_state.md R39 that speak of one state: item 1 in READY and FINALIZED; in READY
item 2 (`t` is a multiple of `BB`, and an empty buffer means no compression was done); in FINALIZED
item 4 (the buffer is zero from `fill` on). -/
structure State.Inv (s : State) : Prop where
  fillRange : s.phase ≠ .idle → s.fill.toNat ≤ s.variant.bb
  diglenRange : s.phase ≠ .idle → 1 ≤ s.diglen.toNat ∧ s.diglen.toNat ≤ s.variant.dmax
  counterAligned : s.phase = .ready → counterOf s.variant s.t % s.variant.bb = 0
  counterFresh : s.phase = .ready → s.fill = 0#8 → counterOf s.variant s.t = 0
  padded : s.phase = .finalized →
    ∀ i, s.fill.toNat ≤ i → i < s.variant.bb → byteAt s.buf i = 0#8

/-- A response packet to a command whose header byte 0 was `opc`: a status of 30_encoding.md R78, at
most 64 payload bytes, none unless the status is OK (30_encoding.md R77; U10 of
93_implementation_defined.md). -/
def IsResponse (opc : Byte) (r : List Byte) : Prop :=
  ∃ st payload, r = response st opc payload ∧ payload.length ≤ 64 ∧ (st ≠ .ok → payload = [])

/-- The response stream is a sequence of response packets (20_memory.md R59). -/
def RoutWellFormed (rout : List Byte) : Prop :=
  ∃ rs : List (List Byte), rout = rs.flatten ∧ ∀ r ∈ rs, ∃ opc, IsResponse opc r

/-! ### The part of the state the engine uses -/

/-- The values of the chaining words the variant uses (10_state.md R20). -/
def usedWords (v : Variant) (h : Vector (BitVec 64) 8) : List Nat :=
  h.toList.map fun x => x.toNat % 2 ^ v.w

/-- Two states that agree on everything the engine may read: the phase and the streams always; the
context's registers outside IDLE (10_state.md R38), and of those only the parts the variant uses
(10_state.md R20, R26, R27). -/
structure SameUsed (s t : State) : Prop where
  phase : s.phase = t.phase
  cin : s.cin = t.cin
  rout : s.rout = t.rout
  variant : s.phase ≠ .idle → s.variant = t.variant
  diglen : s.phase ≠ .idle → s.diglen = t.diglen
  lastnode : s.phase ≠ .idle → s.lastnode = t.lastnode
  words : s.phase ≠ .idle → usedWords s.variant s.h = usedWords s.variant t.h
  counter : s.phase ≠ .idle → counterOf s.variant s.t = counterOf s.variant t.t
  block : s.phase ≠ .idle → blockOf s.variant s.buf = blockOf s.variant t.buf
  fill : s.phase ≠ .idle → s.fill = t.fill

/-- Two outcomes that agree on everything the engine may read later. -/
def SameOutcome : Host.Outcome State Fault Refusal → Host.Outcome State Fault Refusal → Prop
  | .next s, .next t => SameUsed s t
  | .fault f, .fault g => f = g
  | .refused r, .refused q => r = q
  | _, _ => False

/-! ### The tables of the spec -/

/-- The packets that spell no command, row by row of the table of 30_encoding.md R81. -/
def IllegalPacket (k : Packet) : Prop :=
  k.opc.toNat = 0x00 ∨ 0x05 ≤ k.opc.toNat
  ∨ (k.opc.toNat = 0x01 ∧ 4 ≤ k.arg.toNat)
  ∨ (k.opc.toNat = 0x01 ∧ k.payload.length < 20)
  ∨ (k.opc.toNat = 0x01 ∧ k.payload.length ≠
      20 + (k.payload.getD 1 0#8).toNat + (k.payload.getD 18 0#8).toNat
        + (k.payload.getD 19 0#8).toNat)
  ∨ (k.opc.toNat = 0x01 ∧ k.arg.toNat % 2 = 1 ∧
      (k.payload.getD 14 0#8 ≠ 0#8 ∨ k.payload.getD 15 0#8 ≠ 0#8))
  ∨ (k.opc.toNat = 0x02 ∧ k.arg.toNat ≠ 0)
  ∨ ((k.opc.toNat = 0x03 ∨ k.opc.toNat = 0x04) ∧ (k.arg.toNat ≠ 0 ∨ k.payload.length ≠ 0))

/-- The header of a packet as the word `W` (30_encoding.md R71). -/
def headerWord (k : Packet) : BitVec 32 := BitVec.ofNat 32 (loadLe (k.bytes.take 4))

/-- The match value of the row of spec/opcode_table.json an instruction stands for (30_encoding.md
R80). -/
def rowMatch : Instr → BitVec 32
  | .initB _ _ => 0x00000001#32
  | .initS _ _ => 0x00000101#32
  | .update _ => 0x00000002#32
  | .final => 0x00000003#32
  | .dlen => 0x00000004#32

/-- The mask of that row (30_encoding.md R80). -/
def rowMask : Instr → BitVec 32
  | .initB _ _ => 0x0000FDFF#32
  | .initS _ _ => 0x0000FDFF#32
  | .update _ => 0x0000FFFF#32
  | .final => 0xFFFFFFFF#32
  | .dlen => 0xFFFFFFFF#32

/-- The parameters are valid: none of the causes of 60_exceptions.md R211 holds. -/
def LegalConfig : Variant → InitOperands → Prop
  | .b, op => op.digestLen.toNat ≠ 0 ∧ op.digestLen.toNat ≤ 64 ∧ op.keyLen.toNat ≤ 64
      ∧ op.salt.length ≤ 16 ∧ op.pers.length ≤ 16
  | .s, op => op.digestLen.toNat ≠ 0 ∧ op.digestLen.toNat ≤ 32 ∧ op.keyLen.toNat ≤ 32
      ∧ op.salt.length ≤ 8 ∧ op.pers.length ≤ 8

/-- A cell of the table of 60_exceptions.md R214: in phase `p` the command `i` is answered `st` and
leaves the engine in phase `q`. -/
def StatusCell (p : Phase) (i : Instr) (st : Status) (q : Phase) : Prop :=
  match i with
  | .initB _ op =>
    (LegalConfig .b op ∧ st = .ok ∧ q = .ready) ∨ (¬ LegalConfig .b op ∧ st = .configError ∧ q = p)
  | .initS _ op =>
    (LegalConfig .s op ∧ st = .ok ∧ q = .ready) ∨ (¬ LegalConfig .s op ∧ st = .configError ∧ q = p)
  | .update _ => (p = .ready ∧ st = .ok ∧ q = .ready) ∨ (p ≠ .ready ∧ st = .stateError ∧ q = p)
  | .final => (p = .ready ∧ st = .ok ∧ q = .finalized) ∨ (p ≠ .ready ∧ st = .stateError ∧ q = p)
  | .dlen => (p ≠ .idle ∧ st = .ok ∧ q = p) ∨ (p = .idle ∧ st = .stateError ∧ q = p)

/-! ### The hash of a whole message -/

/-- The INIT command of a variant. -/
def initCommand (v : Variant) (lastnode : Bool) (op : InitOperands) : Instr :=
  match v with
  | .b => .initB lastnode op
  | .s => .initS lastnode op

/-- Commands one after another, each on the state the one before left, stopping at a stop. -/
def execAll : List Instr → State → Host.Outcome State Fault Refusal
  | [], s => .next s
  | i :: is, s =>
    match exec i s with
    | .next s' => execAll is s'
    | .fault f => .fault f
    | .refused r => .refused r

/-- `X`: the key block, if there is a key, then the message (43_sequencer_commands.md R179). -/
def hashInput (bb : Nat) (op : InitOperands) (M : List Byte) : List Byte :=
  if op.keyLen.toNat = 0 then M else op.key ++ zeros (bb - op.keyLen.toNat) ++ M

/-- Block `k` of `X`, counting from 0, zero-padded to `bb` bytes (43_sequencer_commands.md R179). -/
def hashBlock (bb : Nat) (X : List Byte) (k : Nat) : List Byte :=
  slice X (k * bb) bb ++ zeros (bb - (slice X (k * bb) bb).length)

/-- `h_k` for `k` compressions that are not the last (43_sequencer_commands.md R179). -/
def hashChain {w : Nat} (L : Lane w) (bb : Nat) (h0 : Vector (BitVec w) 8) (X : List Byte) :
    Nat → Vector (BitVec w) 8
  | 0 => h0
  | k + 1 => compress L (hashChain L bb h0 X k) (hashBlock bb X k) ((k + 1) * bb) false false

/-- The number of blocks, `max(1, ceil(N / BB))` (43_sequencer_commands.md R179). -/
def hashBlocks (bb : Nat) (X : List Byte) : Nat := max 1 ((X.length + bb - 1) / bb)

/-- `serialize(h_n, digest_len)` for one variant (43_sequencer_commands.md R179). -/
def hashWith {w : Nat} (L : Lane w) (bb : Nat) (h0 : Vector (BitVec w) 8) (lastnode : Bool)
    (digestLen : Nat) (X : List Byte) : List Byte :=
  let n := hashBlocks bb X
  serialize
    (compress L (hashChain L bb h0 X (n - 1)) (hashBlock bb X (n - 1)) X.length true lastnode)
    digestLen

/-- The BLAKE2 hash of `M` under the parameters of an INIT (43_sequencer_commands.md R179). -/
def blake2 (v : Variant) (lastnode : Bool) (op : InitOperands) (M : List Byte) : List Byte :=
  match v with
  | .b => hashWith laneB 128 (foldParams laneB (paramBlockB op)) lastnode op.digestLen.toNat
      (hashInput 128 op M)
  | .s => hashWith laneS 64 (foldParams laneS (paramBlockS op)) lastnode op.digestLen.toNat
      (hashInput 64 op M)

end Sys2Proof.Machine
end

