-- ==== Sys2Proof/Certificates/Slice0/Obligations.lean ====
section
/-! DEFINITION. The statements for the provers.  Each docstring names the rule of spec/ it formalises. -/

open Sys2Proof Sys2Proof.Machine

/-! ### Word operations (spec/40_wordops.md) -/

/-- 40_wordops.md R103: the formula, and "Bit `k` of the result is bit `(k + n) mod w` of `x`". -/
def Obligations.RotrMovesEveryBit : Prop :=
  ∀ (w n : Nat) (x : BitVec w), 0 < n → n < w →
    (rotr x n).toNat = x.toNat / 2 ^ n + x.toNat % 2 ^ n * 2 ^ (w - n) ∧
    ∀ k, k < w → (rotr x n).getLsbD k = x.getLsbD ((k + n) % w)

/-- 40_wordops.md R104: the weighted sum of the bytes, byte 0 the least significant. -/
def Obligations.LoadLeIsWeightedSum : Prop :=
  ∀ s : List Byte,
    loadLe s = ((List.range s.length).map fun k => 2 ^ (8 * k) * (s.getD k 0#8).toNat).sum

/-- 40_wordops.md R105: byte `k` of `store_le(x, n)`, and the two inverse laws. -/
def Obligations.StoreLeAndLoadLeAreInverse : Prop :=
  (∀ x n, x < 2 ^ (8 * n) →
    (storeLe x n).length = n ∧
    (∀ k, k < n → ((storeLe x n).getD k 0#8).toNat = x / 2 ^ (8 * k) % 256) ∧
    loadLe (storeLe x n) = x) ∧
  ∀ s : List Byte, storeLe (loadLe s) s.length = s

/-- 40_wordops.md R107: the two halves of the counter. -/
def Obligations.CounterSplitsIntoHalves : Prop :=
  ∀ w t, (counterLo w t).toNat = t % 2 ^ w ∧ (counterHi w t).toNat = t / 2 ^ w % 2 ^ w ∧
    (t < 2 ^ (2 * w) → t = (counterLo w t).toNat + 2 ^ w * (counterHi w t).toNat)

/-! ### G and F (spec/41_compression.md) -/

/-- 41_compression.md R122: every row of SIGMA holds each index once, and round `i` uses row
`i mod 10`. -/
def Obligations.SigmaRowsArePermutations : Prop :=
  (∀ r : Fin 10, (sigma[r]).toList.Perm (List.finRange 16)) ∧
  ∀ i, sigmaRow i = sigma[i % 10]'(Nat.mod_lt i (by decide))

/-- 41_compression.md R124: the eight steps of G, each with the values the earlier steps wrote, on a
call's four positions, which are distinct, and its two message words; and the rotation amounts. -/
def Obligations.MixTakesTheEightSteps : Prop :=
  (laneB.r1 = 32 ∧ laneB.r2 = 24 ∧ laneB.r3 = 16 ∧ laneB.r4 = 63) ∧
  (laneS.r1 = 16 ∧ laneS.r2 = 12 ∧ laneS.r3 = 8 ∧ laneS.r4 = 7) ∧
  ∀ (w : Nat) (L : Lane w) (m : Vector (BitVec w) 16) (row : Vector (Fin 16) 16) (g : GCall)
    (v : Vector (BitVec w) 16),
    g.a ≠ g.b → g.a ≠ g.c → g.a ≠ g.d → g.b ≠ g.c → g.b ≠ g.d → g.c ≠ g.d →
    ∃ a1 d1 c1 b1 a2 d2 c2 b2 : BitVec w,
      a1 = v[g.a] + v[g.b] + m[row[g.x]] ∧ d1 = rotr (v[g.d] ^^^ a1) L.r1 ∧
      c1 = v[g.c] + d1 ∧ b1 = rotr (v[g.b] ^^^ c1) L.r2 ∧
      a2 = a1 + b1 + m[row[g.y]] ∧ d2 = rotr (d1 ^^^ a2) L.r3 ∧
      c2 = c1 + d2 ∧ b2 = rotr (b1 ^^^ c2) L.r4 ∧
      (mixAt L m row g v)[g.a] = a2 ∧ (mixAt L m row g v)[g.b] = b2 ∧
      (mixAt L m row g v)[g.c] = c2 ∧ (mixAt L m row g v)[g.d] = d2

/-- 41_compression.md R124: G "is a bijection of the four words for fixed `x, y`", in both
variants. -/
def Obligations.MixIsBijective : Prop :=
  (∀ x y, Function.Bijective fun q : Quad 64 => mixWords laneB q x y) ∧
  ∀ x y, Function.Bijective fun q : Quad 32 => mixWords laneS q x y

/-- 41_compression.md R124: G "reads and writes `v[a]`, `v[b]`, `v[c]`, `v[d]` and nothing else": the
other positions keep their words, and the four new words depend on the four old ones alone. -/
def Obligations.MixTouchesOnlyItsFourWords : Prop :=
  ∀ (w : Nat) (L : Lane w) (m : Vector (BitVec w) 16) (row : Vector (Fin 16) 16) (g : GCall)
    (v v' : Vector (BitVec w) 16),
    (∀ i : Fin 16, i ≠ g.a → i ≠ g.b → i ≠ g.c → i ≠ g.d → (mixAt L m row g v)[i] = v[i]) ∧
    (v[g.a] = v'[g.a] → v[g.b] = v'[g.b] → v[g.c] = v'[g.c] → v[g.d] = v'[g.d] →
      ∀ i : Fin 16, i = g.a ∨ i = g.b ∨ i = g.c ∨ i = g.d →
        (mixAt L m row g v)[i] = (mixAt L m row g v')[i])

/-- 41_compression.md R123: the four column calls may run in any order among themselves, and so may
the four diagonal calls. -/
def Obligations.CallsOfOneKindRunInAnyOrder : Prop :=
  ∀ (w : Nat) (L : Lane w) (m : Vector (BitVec w) 16) (row : Vector (Fin 16) 16)
    (v : Vector (BitVec w) 16) (gs : List GCall),
    (gs.Perm columnCalls → mixCalls L m row gs v = mixCalls L m row columnCalls v) ∧
    (gs.Perm diagonalCalls → mixCalls L m row gs v = mixCalls L m row diagonalCalls v)

/-- 41_compression.md R127: the sixteen words of the initial working vector. -/
def Obligations.WorkingVectorHoldsItsInputs : Prop :=
  ∀ (w : Nat) (L : Lane w) (h : Vector (BitVec w) 8) (t : Nat) (last lastnode : Bool),
    let v := workingVector L h t last lastnode
    (∀ i : Fin 8, v[i.val] = h[i]) ∧
    v[8] = L.iv[0] ∧ v[9] = L.iv[1] ∧ v[10] = L.iv[2] ∧ v[11] = L.iv[3] ∧
    v[12] = L.iv[4] ^^^ BitVec.ofNat w (t % 2 ^ w) ∧
    v[13] = L.iv[5] ^^^ BitVec.ofNat w (t / 2 ^ w % 2 ^ w) ∧
    v[14] = (if last then ~~~L.iv[6] else L.iv[6]) ∧
    v[15] = (if last = true ∧ lastnode = true then ~~~L.iv[7] else L.iv[7])

/-- 20_memory.md R56 and 41_compression.md R126: byte `k` of the block is bits
`8*(k mod WB)+7 : 8*(k mod WB)` of `m[k div WB]`. -/
def Obligations.MessageWordsHoldTheBlock : Prop :=
  (∀ block : List Byte, block.length = 128 → ∀ k : Fin 128,
    ((messageWords 64 block)[k.val / 8]'(by omega)).toNat / 2 ^ (8 * (k.val % 8)) % 256
      = (block.getD k 0#8).toNat) ∧
  ∀ block : List Byte, block.length = 64 → ∀ k : Fin 64,
    ((messageWords 32 block)[k.val / 4]'(by omega)).toNat / 2 ^ (8 * (k.val % 4)) % 256
      = (block.getD k 0#8).toNat

/-- 41_compression.md R128: the last loop of F, `h'[i] = h[i] xor v[i] xor v[i+8]`, on the working
vector after `NR` rounds, each round the eight calls of R123 in order. -/
def Obligations.CompressFoldsTheRounds : Prop :=
  ∀ (w : Nat) (L : Lane w) (h : Vector (BitVec w) 8) (block : List Byte) (t : Nat)
    (last lastnode : Bool),
    ∃ v : Nat → Vector (BitVec w) 16,
      v 0 = workingVector L h t last lastnode ∧
      (∀ i, v (i + 1) =
        mixCalls L (messageWords w block) (sigmaRow i) diagonalCalls
          (mixCalls L (messageWords w block) (sigmaRow i) columnCalls (v i))) ∧
      ∀ i : Fin 8, (compress L h block t last lastnode)[i] =
        h[i] ^^^ (v L.rounds)[i.val] ^^^ (v L.rounds)[i.val + 8]

/-- 41_compression.md R131, the worked example of variant B. -/
def Obligations.CompressWorkedExampleB : Prop :=
  let h : Vector (BitVec 64) 8 :=
    #v[0x6A09E667F2BDC948#64, 0xBB67AE8584CAA73B#64, 0x3C6EF372FE94F82B#64, 0xA54FF53A5F1D36F1#64,
       0x510E527FADE682D1#64, 0x9B05688C2B3E6C1F#64, 0x1F83D9ABFB41BD6B#64, 0x5BE0CD19137E2179#64]
  let block : List Byte := [0x61#8, 0x62#8, 0x63#8] ++ zeros 125
  let m := messageWords 64 block
  let v := workingVector laneB h 3 true false
  m.toList = 0x0000000000636261#64 :: List.replicate 15 0#64 ∧
  v = #v[0x6A09E667F2BDC948#64, 0xBB67AE8584CAA73B#64, 0x3C6EF372FE94F82B#64, 0xA54FF53A5F1D36F1#64,
         0x510E527FADE682D1#64, 0x9B05688C2B3E6C1F#64, 0x1F83D9ABFB41BD6B#64, 0x5BE0CD19137E2179#64,
         0x6A09E667F3BCC908#64, 0xBB67AE8584CAA73B#64, 0x3C6EF372FE94F82B#64, 0xA54FF53A5F1D36F1#64,
         0x510E527FADE682D2#64, 0x9B05688C2B3E6C1F#64, 0xE07C265404BE4294#64, 0x5BE0CD19137E2179#64] ∧
  afterRounds laneB m v 1 =
    #v[0x86B7C1568029BB79#64, 0xC12CBCC809FF59F3#64, 0xC6A5214CC0EACA8E#64, 0x0C87CD524C14CC5D#64,
       0x44EE6039BD86A9F7#64, 0xA447C850AA694A7E#64, 0xDE080F1BB1C0F84B#64, 0x595CB8A9A1ACA66C#64,
       0xBEC3AE837EAC4887#64, 0x6267FC79DF9D6AD1#64, 0xFA87B01273FA6DBE#64, 0x521A715C63E08D8A#64,
       0xE02D0975B8D37A83#64, 0x1C7B754F08B7D193#64, 0x8F885A76B6E578FE#64, 0x2318A24E2140FC64#64] ∧
  afterRounds laneB m v 12 =
    #v[0x12EF8A641EC4F6D6#64, 0xBCED5DE977C9FAF5#64, 0x733CA476C5148639#64, 0x97DF596B0610F6FC#64,
       0xF42C16519AD5AFA7#64, 0xAA5AC1888E10467E#64, 0x217D930AA51787F3#64, 0x906A6FF19E573942#64,
       0x75AB709BD3DCBF24#64, 0xEE7CE1F345947AA4#64, 0xF8960D6C2FAF5F5E#64, 0xE332538A36B6D246#64,
       0x885BEF040EF6AA0B#64, 0xA4939A417BFB78A3#64, 0x646CBB7AF6DCE980#64, 0xE813A23C60AF3B82#64] ∧
  compress laneB h block 3 true false =
    #v[0x0D4D1C983FA580BA#64, 0xE9F6129FB697276A#64, 0xB7C45A68142F214C#64, 0xD1A2FFDB6FBB124B#64,
       0x2D79AB2A39C5877D#64, 0x95CC3345DED552C2#64, 0x5A92F1DBA88AD318#64, 0x239900D4ED8623B9#64]

/-- 41_compression.md R132, the worked example of variant S. -/
def Obligations.CompressWorkedExampleS : Prop :=
  let h : Vector (BitVec 32) 8 :=
    #v[0x6B08E647#32, 0xBB67AE85#32, 0x3C6EF372#32, 0xA54FF53A#32,
       0x510E527F#32, 0x9B05688C#32, 0x1F83D9AB#32, 0x5BE0CD19#32]
  let block : List Byte := [0x61#8, 0x62#8, 0x63#8] ++ zeros 61
  let m := messageWords 32 block
  let v := workingVector laneS h 3 true false
  m.toList = 0x00636261#32 :: List.replicate 15 0#32 ∧
  v = #v[0x6B08E647#32, 0xBB67AE85#32, 0x3C6EF372#32, 0xA54FF53A#32,
         0x510E527F#32, 0x9B05688C#32, 0x1F83D9AB#32, 0x5BE0CD19#32,
         0x6A09E667#32, 0xBB67AE85#32, 0x3C6EF372#32, 0xA54FF53A#32,
         0x510E527C#32, 0x9B05688C#32, 0xE07C2654#32, 0x5BE0CD19#32] ∧
  afterRounds laneS m v 1 =
    #v[0x16A3242E#32, 0xD7B5E238#32, 0xCE8CE24B#32, 0x927AEDE1#32,
       0xA7B430D9#32, 0x93A4A14E#32, 0xA44E7C31#32, 0x41D4759B#32,
       0x95BF33D3#32, 0x9A99C181#32, 0x608A3A6B#32, 0xB666383E#32,
       0x7A8DD50F#32, 0xBE378ED7#32, 0x353D1EE6#32, 0x3BB44C6B#32] ∧
  afterRounds laneS m v 10 =
    #v[0xD9C994AA#32, 0xCFEC3AA6#32, 0x700D0AB2#32, 0x2C38670E#32,
       0xAF6A1F66#32, 0x1D023EF3#32, 0x1D9EC27D#32, 0x945357A5#32,
       0x3E9FFEBD#32, 0x969FE811#32, 0xEF485E21#32, 0xA632797A#32,
       0xDEEF082E#32, 0xAF3D80E1#32, 0x4E86829B#32, 0x4DEAFD3A#32] ∧
  compress laneS h block 3 true false =
    #v[0x8C5E8C50#32, 0xE2147C32#32, 0xA32BA7E1#32, 0x2F45EB4E#32,
       0x208B4537#32, 0x293AD69E#32, 0x4C9B994D#32, 0x82596786#32]

/-! ### The parameter block (spec/42_parameter_block.md) -/

/-- 42_parameter_block.md R152: the eight words of the parameter block of variant B. -/
def Obligations.ParameterBlockLayoutB : Prop :=
  ∀ op : InitOperands, op.salt.length ≤ 16 → op.pers.length ≤ 16 →
    let P := paramBlockB op
    P.length = 64 ∧
    (paramWord 64 P 0).toNat = op.digestLen.toNat + 2 ^ 8 * op.keyLen.toNat
      + 2 ^ 16 * op.fanout.toNat + 2 ^ 24 * op.depth.toNat + 2 ^ 32 * op.leafLen.toNat ∧
    paramWord 64 P 1 = op.nodeOffset ∧
    (paramWord 64 P 2).toNat = op.nodeDepth.toNat + 2 ^ 8 * op.innerLen.toNat ∧
    paramWord 64 P 3 = 0#64 ∧
    (paramWord 64 P 4).toNat = loadLe (slice op.salt 0 8) ∧
    (paramWord 64 P 5).toNat = loadLe (slice op.salt 8 8) ∧
    (paramWord 64 P 6).toNat = loadLe (slice op.pers 0 8) ∧
    (paramWord 64 P 7).toNat = loadLe (slice op.pers 8 8)

/-- 42_parameter_block.md R153: the eight words of the parameter block of variant S. -/
def Obligations.ParameterBlockLayoutS : Prop :=
  ∀ op : InitOperands, op.salt.length ≤ 8 → op.pers.length ≤ 8 → op.nodeOffset.toNat < 2 ^ 48 →
    let P := paramBlockS op
    P.length = 32 ∧
    (paramWord 32 P 0).toNat = op.digestLen.toNat + 2 ^ 8 * op.keyLen.toNat
      + 2 ^ 16 * op.fanout.toNat + 2 ^ 24 * op.depth.toNat ∧
    paramWord 32 P 1 = op.leafLen ∧
    (paramWord 32 P 2).toNat = op.nodeOffset.toNat % 2 ^ 32 ∧
    (paramWord 32 P 3).toNat = op.nodeOffset.toNat / 2 ^ 32
      + 2 ^ 16 * op.nodeDepth.toNat + 2 ^ 24 * op.innerLen.toNat ∧
    (paramWord 32 P 4).toNat = loadLe (slice op.salt 0 4) ∧
    (paramWord 32 P 5).toNat = loadLe (slice op.salt 4 4) ∧
    (paramWord 32 P 6).toNat = loadLe (slice op.pers 0 4) ∧
    (paramWord 32 P 7).toNat = loadLe (slice op.pers 4 4)

/-- 42_parameter_block.md R155: a short salt or personalization does what the same bytes followed by
zero bytes up to the field's width do, in both variants and in every state. -/
def Obligations.ShortSaltIsZeroPadded : Prop :=
  ∀ (ln : Bool) (op : InitOperands) (s : State),
    (op.salt.length ≤ 16 → op.pers.length ≤ 16 →
      exec (.initB ln { op with
          salt := op.salt ++ zeros (16 - op.salt.length)
          pers := op.pers ++ zeros (16 - op.pers.length) }) s = exec (.initB ln op) s) ∧
    (op.salt.length ≤ 8 → op.pers.length ≤ 8 →
      exec (.initS ln { op with
          salt := op.salt ++ zeros (8 - op.salt.length)
          pers := op.pers ++ zeros (8 - op.pers.length) }) s = exec (.initS ln op) s)

/-- 42_parameter_block.md R157 (a) to (d): the parameter blocks, their words where the rule gives them,
and the initial chaining states of the worked examples. -/
def Obligations.ParameterBlockWorkedExamples : Prop :=
  let PA := paramBlockB ⟨64#8, 0#8, 1#8, 1#8, 0#32, 0#64, 0#8, 0#8, [], [], []⟩
  let PB := paramBlockS ⟨32#8, 0#8, 1#8, 1#8, 0#32, 0#64, 0#8, 0#8, [], [], []⟩
  let PC := paramBlockB
    ⟨32#8, 4#8, 2#8, 3#8, 0x11223344#32, 0x0102030405060708#64, 4#8, 64#8,
     [1#8, 2#8, 3#8, 4#8],
     [0x10#8, 0x11#8, 0x12#8, 0x13#8, 0x14#8, 0x15#8, 0x16#8, 0x17#8,
      0x18#8, 0x19#8, 0x1A#8, 0x1B#8, 0x1C#8, 0x1D#8, 0x1E#8, 0x1F#8],
     [0x42#8, 0x32#8, 0x43#8, 0x45#8]⟩
  let PD := paramBlockS
    ⟨16#8, 3#8, 2#8, 3#8, 0x11223344#32, 0x010203040506#64, 4#8, 5#8,
     [0#8, 1#8, 2#8], [0xAA#8, 0xBB#8], [0xCC#8]⟩
  (PA = [0x40#8, 0x00#8, 0x01#8, 0x01#8] ++ zeros 60 ∧
    paramWord 64 PA 0 = 0x0000000001010040#64 ∧
    (∀ i : Fin 8, i ≠ 0 → paramWord 64 PA i.val = 0#64) ∧
    foldParams laneB PA =
      #v[0x6A09E667F2BDC948#64, 0xBB67AE8584CAA73B#64, 0x3C6EF372FE94F82B#64, 0xA54FF53A5F1D36F1#64,
         0x510E527FADE682D1#64, 0x9B05688C2B3E6C1F#64, 0x1F83D9ABFB41BD6B#64, 0x5BE0CD19137E2179#64]) ∧
  (PB = [0x20#8, 0x00#8, 0x01#8, 0x01#8] ++ zeros 28 ∧
    paramWord 32 PB 0 = 0x01010020#32 ∧
    foldParams laneS PB =
      #v[0x6B08E647#32, 0xBB67AE85#32, 0x3C6EF372#32, 0xA54FF53A#32,
         0x510E527F#32, 0x9B05688C#32, 0x1F83D9AB#32, 0x5BE0CD19#32]) ∧
  (PC =
      [0x20#8, 0x04#8, 0x02#8, 0x03#8, 0x44#8, 0x33#8, 0x22#8, 0x11#8,
       0x08#8, 0x07#8, 0x06#8, 0x05#8, 0x04#8, 0x03#8, 0x02#8, 0x01#8,
       0x04#8, 0x40#8] ++ zeros 14 ++
      [0x10#8, 0x11#8, 0x12#8, 0x13#8, 0x14#8, 0x15#8, 0x16#8, 0x17#8,
       0x18#8, 0x19#8, 0x1A#8, 0x1B#8, 0x1C#8, 0x1D#8, 0x1E#8, 0x1F#8,
       0x42#8, 0x32#8, 0x43#8, 0x45#8] ++ zeros 12 ∧
    paramWord 64 PC 0 = 0x1122334403020420#64 ∧ paramWord 64 PC 1 = 0x0102030405060708#64 ∧
    paramWord 64 PC 2 = 0x0000000000004004#64 ∧ paramWord 64 PC 3 = 0#64 ∧
    paramWord 64 PC 4 = 0x1716151413121110#64 ∧ paramWord 64 PC 5 = 0x1F1E1D1C1B1A1918#64 ∧
    paramWord 64 PC 6 = 0x0000000045433242#64 ∧ paramWord 64 PC 7 = 0#64 ∧
    foldParams laneB PC =
      #v[0x7B2BD523F0BECD28#64, 0xBA65AD8181CCA033#64, 0x3C6EF372FE94B82F#64, 0xA54FF53A5F1D36F1#64,
         0x4618476BBEF493C1#64, 0x841B759030247507#64, 0x1F83D9ABBE028F29#64, 0x5BE0CD19137E2179#64]) ∧
  (PD =
      [0x10#8, 0x03#8, 0x02#8, 0x03#8, 0x44#8, 0x33#8, 0x22#8, 0x11#8,
       0x06#8, 0x05#8, 0x04#8, 0x03#8, 0x02#8, 0x01#8, 0x04#8, 0x05#8,
       0xAA#8, 0xBB#8] ++ zeros 6 ++ [0xCC#8] ++ zeros 7 ∧
    foldParams laneS PD =
      #v[0x690BE577#32, 0xAA459DC1#32, 0x3F6AF674#32, 0xA04BF438#32,
         0x510EE9D5#32, 0x9B05688C#32, 0x1F83D967#32, 0x5BE0CD19#32])

/-! ### The digest serializer (spec/44_digest_serializer.md) -/

/-- 44_digest_serializer.md R200: the digest has `n` bytes, and digest byte `k` is bits
`8*(k mod WB)+7 : 8*(k mod WB)` of `h[k div WB]`. -/
def Obligations.SerializeWritesWordsLittleEndian : Prop :=
  (∀ (h : Vector (BitVec 64) 8) (n : Nat), n ≤ 64 →
    (serialize h n).length = n ∧ ∀ k : Fin 64, k.val < n →
      ((serialize h n).getD k 0#8).toNat
        = (h[k.val / 8]'(by omega)).toNat / 2 ^ (8 * (k.val % 8)) % 256) ∧
  ∀ (h : Vector (BitVec 32) 8) (n : Nat), n ≤ 32 →
    (serialize h n).length = n ∧ ∀ k : Fin 32, k.val < n →
      ((serialize h n).getD k 0#8).toNat
        = (h[k.val / 4]'(by omega)).toNat / 2 ^ (8 * (k.val % 4)) % 256

/-! ### Encoding (spec/30_encoding.md) -/

/-- 30_encoding.md R72 to R76, R82: decoding the encoding of a well-formed command gives it back, at
every value of every operand, and leaves the bytes after it. -/
def Obligations.DecodeInvertsEncode : Prop :=
  ∀ (i : Instr) (rest : List Byte), i.WellFormed → decode (encode i ++ rest) = .command i rest

/-- The other direction: a packet that decodes to a command is the encoding of that command, and the
command is well-formed (each packet has one meaning; 30_encoding.md R80, R82). -/
def Obligations.EncodeInvertsDecode : Prop :=
  ∀ (cin rest : List Byte) (i : Instr), decode cin = .command i rest →
    i.WellFormed ∧ cin = encode i ++ rest

/-- 30_encoding.md R86: the worked packets and the worked responses. -/
def Obligations.WorkedEncodings : Prop :=
  (decode ([0x01, 0x00, 0x14, 0x00] ++ [0x40, 0x00, 0x01, 0x01] ++ [0, 0, 0, 0]
      ++ [0, 0, 0, 0, 0, 0, 0, 0] ++ [0, 0, 0, 0])
    = .command (.initB false ⟨64, 0, 1, 1, 0, 0, 0, 0, [], [], []⟩) []) ∧
  (decode ([0x01, 0x01, 0x14, 0x00] ++ [0x20, 0x00, 0x01, 0x01] ++ [0, 0, 0, 0]
      ++ [0, 0, 0, 0, 0, 0, 0, 0] ++ [0, 0, 0, 0])
    = .command (.initS false ⟨32, 0, 1, 1, 0, 0, 0, 0, [], [], []⟩) []) ∧
  (decode ([0x01, 0x03, 0x1A, 0x00] ++ [0x10, 0x03, 0x02, 0x03] ++ [0x44, 0x33, 0x22, 0x11]
      ++ [0x06, 0x05, 0x04, 0x03, 0x02, 0x01, 0x00, 0x00] ++ [0x04, 0x05, 0x02, 0x01]
      ++ [0x00, 0x01, 0x02] ++ [0xAA, 0xBB] ++ [0xCC])
    = .command (.initS true ⟨16, 3, 2, 3, 0x11223344, 0x010203040506, 4, 5,
        [0x00, 0x01, 0x02], [0xAA, 0xBB], [0xCC]⟩) []) ∧
  (decode [0x02, 0x00, 0x03, 0x00, 0x61, 0x62, 0x63] = .command (.update [0x61, 0x62, 0x63]) []) ∧
  (decode [0x02, 0x00, 0x00, 0x00] = .command (.update []) []) ∧
  (decode [0x03, 0x00, 0x00, 0x00] = .command .final []) ∧
  (decode [0x04, 0x00, 0x00, 0x00] = .command .dlen []) ∧
  response .ok opcInit [] = [0x00, 0x01, 0x00, 0x00] ∧
  response .ok opcUpdate [] = [0x00, 0x02, 0x00, 0x00] ∧
  response .ok opcDlen [0x40] = [0x00, 0x04, 0x01, 0x00, 0x40] ∧
  (∀ d : List Byte, d.length = 64 → response .ok opcFinal d = [0x00, 0x03, 0x40, 0x00] ++ d) ∧
  response .stateError opcFinal [] = [0x02, 0x03, 0x00, 0x00] ∧
  response .configError opcInit [] = [0x01, 0x01, 0x00, 0x00] ∧
  response .badCommand 0x7F [] = [0x03, 0x7F, 0x00, 0x00]

/-- 30_encoding.md R80: the match and mask of the opcode map.  A command's header word meets its row;
for UPDATE, FINAL and DLEN that is sufficient too. -/
def Obligations.HeaderMatchesTheOpcodeMap : Prop :=
  ∀ k : Packet, k.payload.length ≤ 65535 →
    (∀ i, decodePacket k = .ok i → headerWord k &&& rowMask i = rowMatch i) ∧
    (headerWord k &&& 0x0000FFFF#32 = 0x00000002#32 → decodePacket k = .ok (.update k.payload)) ∧
    (headerWord k &&& 0xFFFFFFFF#32 = 0x00000003#32 → decodePacket k = .ok .final) ∧
    (headerWord k &&& 0xFFFFFFFF#32 = 0x00000004#32 → decodePacket k = .ok .dlen)

/-- 30_encoding.md R81 and 60_exceptions.md R213: the packets of the table, and only those, spell no
command; such a packet is consumed, no register changes, and the response is `03 OPC 00 00`. -/
def Obligations.IllegalPacketsAreBadCommand : Prop :=
  ∀ (s : State) (k : Packet) (rest : List Byte), takePacket s.cin = some (k, rest) →
    (IllegalPacket k →
      step s = .next { s with cin := rest, rout := s.rout ++ [0x03#8, k.opc, 0x00#8, 0x00#8] }) ∧
    (¬ IllegalPacket k → ∃ i, decode s.cin = .command i rest)

/-! ### The step (spec/20_memory.md, spec/30_encoding.md R82, R83) -/

/-- 30_encoding.md R82: a packet that decodes to a command is consumed, and the step is that command's
effect on the state with the packet consumed; nothing else is done around it. -/
def Obligations.StepRunsTheDecodedCommand : Prop :=
  ∀ (s : State) (i : Instr) (rest : List Byte), decode s.cin = .command i rest →
    step s = exec i { s with cin := rest }

/-- 30_encoding.md R83: with fewer than 4 bytes, or fewer than `4 + LEN`, the engine does nothing.
That a held engine still takes a step, which changes nothing, is the model's reading (log entry 3). -/
def Obligations.IncompletePacketHoldsTheEngine : Prop :=
  ∀ s : State,
    (s.cin.length < 4 → step s = .next s) ∧
    (∀ b0 b1 b2 b3 p, s.cin = b0 :: b1 :: b2 :: b3 :: p →
      p.length < b2.toNat + 256 * b3.toNat → step s = .next s)

/-- A step that changes nothing is a held engine (30_encoding.md R83; log entry 3); and from every state
that meets the invariants a complete packet at the head of `CIN` is consumed, exactly its `4 + LEN` bytes
(30_encoding.md R82). -/
def Obligations.OnlyAHeldEngineStandsStill : Prop :=
  (∀ s : State, step s = .next s → decode s.cin = .held) ∧
  ∀ (s : State) (k : Packet) (rest : List Byte), s.Inv → takePacket s.cin = some (k, rest) →
    ∃ s', step s = .next s' ∧ s'.cin = rest

/-- 30_encoding.md R77: every packet is answered by exactly one response packet, with the status,
the echo of `OPC`, the length and the payload of the table there; the packet is consumed
(20_memory.md R58, R59). -/
def Obligations.EveryPacketGetsOneResponse : Prop :=
  ∀ (s s' : State) (k : Packet) (rest : List Byte), s.Inv → takePacket s.cin = some (k, rest) →
    step s = .next s' →
    s'.cin = rest ∧
    ∃ (status : Byte) (payload : List Byte),
      s'.rout = s.rout ++ [status, k.opc, BitVec.ofNat 8 payload.length,
        BitVec.ofNat 8 (payload.length / 256)] ++ payload ∧
      status.toNat ≤ 3 ∧
      (status ≠ 0#8 → payload = []) ∧
      (status = 0#8 →
        (k.opc = 1#8 ∧ payload = []) ∨ (k.opc = 2#8 ∧ payload = []) ∨
        (k.opc = 3#8 ∧ payload.length = s.diglen.toNat ∧
          payload = digestOf s'.variant s'.h s'.diglen.toNat) ∨
        (k.opc = 4#8 ∧ payload = [s.diglen]))

/-- 43_sequencer_commands.md R170, 60_exceptions.md R218: a step whose response has a status other than
OK changes no register; only the streams move. -/
def Obligations.ErrorsChangeNoRegister : Prop :=
  ∀ (s s' : State) (status : Byte) (tail : List Byte), step s = .next s' →
    s'.rout = s.rout ++ status :: tail → status ≠ 0#8 →
    s' = { s with cin := s'.cin, rout := s'.rout }

/-- 10_state.md R24, R29, R30: `VARIANT`, `DIGLEN` and `LASTNODE` are written by INIT only. -/
def Obligations.ConfigurationIsImmutableBetweenInits : Prop :=
  ∀ s s' : State, step s = .next s' →
    (∀ ln op rest, decode s.cin ≠ .command (.initB ln op) rest) →
    (∀ ln op rest, decode s.cin ≠ .command (.initS ln op) rest) →
    s'.variant = s.variant ∧ s'.diglen = s.diglen ∧ s'.lastnode = s.lastnode

/-- 10_state.md R25: the complete table of phase transitions, reset included. -/
def Obligations.PhaseTransitions : Prop :=
  (∀ left : State, left.resetEvent.phase = .idle) ∧
  ∀ s s' : State, step s = .next s' →
    (∀ i rest, decode s.cin = .command i rest → ∃ st tail,
      s'.rout = s.rout ++ statusCode st :: tail ∧ StatusCell s.phase i st s'.phase) ∧
    (∀ opc why rest, decode s.cin = .bad opc why rest → s'.phase = s.phase)

/-! ### The commands (spec/43_sequencer_commands.md) -/

/-- 43_sequencer_commands.md R171: INIT.B, legal in every phase, with its result, and its only error. -/
def Obligations.InitBCreatesAHash : Prop :=
  ∀ (ln : Bool) (op : InitOperands) (s : State), (Instr.initB ln op).WellFormed →
    (LegalConfig .b op → ∃ t, exec (.initB ln op) s = .next t ∧
      t.phase = .ready ∧ t.variant = .b ∧ t.diglen = op.digestLen ∧ t.lastnode = ln ∧
      t.h = foldParams laneB (paramBlockB op) ∧ t.t = 0#128 ∧
      blockOf .b t.buf = (if op.keyLen = 0#8 then zeros 128
        else op.key ++ zeros (128 - op.keyLen.toNat)) ∧
      t.fill = (if op.keyLen = 0#8 then 0#8 else 128#8) ∧
      t.cin = s.cin ∧ t.rout = s.rout ++ [0x00#8, 0x01#8, 0x00#8, 0x00#8]) ∧
    (¬ LegalConfig .b op → exec (.initB ln op) s =
      .next { s with rout := s.rout ++ [0x01#8, 0x01#8, 0x00#8, 0x00#8] })

/-- 43_sequencer_commands.md R172: INIT.S, on the parts of the registers variant S uses. -/
def Obligations.InitSCreatesAHash : Prop :=
  ∀ (ln : Bool) (op : InitOperands) (s : State), (Instr.initS ln op).WellFormed →
    (LegalConfig .s op → ∃ t, exec (.initS ln op) s = .next t ∧
      t.phase = .ready ∧ t.variant = .s ∧ t.diglen = op.digestLen ∧ t.lastnode = ln ∧
      lowWords 32 t.h = foldParams laneS (paramBlockS op) ∧ counterOf .s t.t = 0 ∧
      blockOf .s t.buf = (if op.keyLen = 0#8 then zeros 64
        else op.key ++ zeros (64 - op.keyLen.toNat)) ∧
      t.fill = (if op.keyLen = 0#8 then 0#8 else 64#8) ∧
      t.cin = s.cin ∧ t.rout = s.rout ++ [0x00#8, 0x01#8, 0x00#8, 0x00#8]) ∧
    (¬ LegalConfig .s op → exec (.initS ln op) s =
      .next { s with rout := s.rout ++ [0x01#8, 0x01#8, 0x00#8, 0x00#8] })

/-- 43_sequencer_commands.md R173 item 5, 70_reset_and_hazards.md R249: nothing of the previous hash
survives a successful INIT, so the state after it does not depend on the registers before it. -/
def Obligations.InitForgetsThePreviousHash : Prop :=
  ∀ (v : Variant) (ln : Bool) (op : InitOperands) (s1 s2 t1 t2 : State), LegalConfig v op →
    s1.cin = s2.cin → s1.rout = s2.rout →
    exec (initCommand v ln op) s1 = .next t1 → exec (initCommand v ln op) s2 = .next t2 →
    SameUsed t1 t2

/-- 43_sequencer_commands.md R173: the key block is staged exactly as an UPDATE of the `BB` bytes
`key || 0^(BB - key_len)` on a fresh context would leave it, whatever the buffer held. -/
def Obligations.KeyBlockIsAFirstUpdate : Prop :=
  ∀ (v : Variant) (ln : Bool) (op : InitOperands) (s t1 : State) (buf : Vector Byte 128),
    (initCommand v ln op).WellFormed → LegalConfig v op → op.keyLen ≠ 0#8 →
    exec (initCommand v ln op) s = .next t1 →
    ∃ t2, exec (.update (op.key ++ zeros (v.bb - op.keyLen.toNat)))
        { t1 with buf := buf, fill := 0#8 } = .next t2 ∧
      SameUsed { t2 with rout := t1.rout } t1

/-- 43_sequencer_commands.md R174, R175 item 4: bytes that fit the rest of the block are stored in
order from index `fill`, and nothing else changes: no compression, every other byte as before. -/
def Obligations.UpdateWithinABlockOnlyStores : Prop :=
  ∀ (data : List Byte) (s : State), s.phase = .ready →
    s.fill.toNat + data.length ≤ s.variant.bb →
    ∃ t, exec (.update data) s = .next t ∧
      t = { s with buf := t.buf, fill := BitVec.ofNat 8 (s.fill.toNat + data.length),
                   rout := s.rout ++ [0x00#8, 0x02#8, 0x00#8, 0x00#8] } ∧
      ∀ i, byteAt t.buf i =
        if s.fill.toNat ≤ i ∧ i < s.fill.toNat + data.length then data.getD (i - s.fill.toNat) 0#8
        else byteAt s.buf i

/-- 43_sequencer_commands.md R174: a full buffer and one more byte.  The counter advances by `BB`, F
runs on the full block with that counter and `last = false`, and the byte starts the new block; every
other byte of the buffer, and every other register, is as before. -/
def Obligations.UpdateOnAFullBlockCompresses : Prop :=
  ∀ (b : Byte) (s : State), s.phase = .ready → s.fill.toNat = s.variant.bb →
    ∃ t, exec (.update [b]) s = .next t ∧
      t = { s with h := t.h, t := t.t, buf := t.buf, fill := 1#8,
                   rout := s.rout ++ [0x00#8, 0x02#8, 0x00#8, 0x00#8] } ∧
      counterOf s.variant t.t = (counterOf s.variant s.t + s.variant.bb) % 2 ^ s.variant.cw ∧
      (s.variant = .b → lowWords 64 t.h = compress laneB (lowWords 64 s.h) (blockOf .b s.buf)
        (counterOf .b t.t) false false) ∧
      (s.variant = .s → lowWords 32 t.h = compress laneS (lowWords 32 s.h) (blockOf .s s.buf)
        (counterOf .s t.t) false false) ∧
      byteAt t.buf 0 = b ∧ ∀ i, i ≠ 0 → byteAt t.buf i = byteAt s.buf i

/-- 43_sequencer_commands.md R175 item 1: a zero-length UPDATE in READY changes no register. -/
def Obligations.EmptyUpdateChangesNoRegister : Prop :=
  ∀ s : State, s.phase = .ready →
    exec (.update []) s =
      .next { s with rout := s.rout ++ [0x00#8, 0x02#8, 0x00#8, 0x00#8] }

/-- 43_sequencer_commands.md R174, R175 item 3 (with the count of 90_conflicts.md C15): UPDATE of any
payload completes in READY; it does `floor((fill + LEN - 1) / BB)` compressions, advances `t` by `BB`
for each, and leaves the rest in the buffer; the other registers are as before. -/
def Obligations.UpdateCountsItsCompressions : Prop :=
  ∀ (data : List Byte) (s : State), s.Inv → s.phase = .ready →
    ∃ t, exec (.update data) s = .next t ∧
      t = { s with h := t.h, t := t.t, buf := t.buf, fill := t.fill,
                   rout := s.rout ++ [0x00#8, 0x02#8, 0x00#8, 0x00#8] } ∧
      let c := (s.fill.toNat + data.length - 1) / s.variant.bb
      counterOf s.variant t.t = (counterOf s.variant s.t + s.variant.bb * c) % 2 ^ s.variant.cw ∧
      t.fill.toNat + s.variant.bb * c = s.fill.toNat + data.length ∧
      (c = 0 → t.h = s.h)

/-- 43_sequencer_commands.md R175 item 2, incremental equivalence: `Update(a)` then `Update(b)` leaves
the registers `Update(a || b)` leaves, from every state and for all payloads. -/
def Obligations.UpdateMaySplitAnywhere : Prop :=
  ∀ (a b : List Byte) (s s1 s2 : State), exec (.update a) s = .next s1 →
    exec (.update b) s1 = .next s2 →
    ∃ s3, exec (.update (a ++ b)) s = .next s3 ∧ s3 = { s2 with rout := s1.rout }

/-- 43_sequencer_commands.md R176: FINAL, with its result in READY, and its only error. -/
def Obligations.FinalProducesTheDigest : Prop :=
  (∀ s : State, s.phase ≠ .ready → exec .final s =
    .next { s with rout := s.rout ++ [0x02#8, 0x03#8, 0x00#8, 0x00#8] }) ∧
  ∀ s : State, s.Inv → s.phase = .ready →
    ∃ t digest, exec .final s = .next t ∧
      t = { s with phase := .finalized, h := t.h, t := t.t, buf := t.buf,
                   rout := s.rout ++ [0x00#8, 0x03#8, s.diglen, 0x00#8] ++ digest } ∧
      counterOf s.variant t.t = (counterOf s.variant s.t + s.fill.toNat) % 2 ^ s.variant.cw ∧
      blockOf s.variant t.buf = slice (blockOf s.variant s.buf) 0 s.fill.toNat
        ++ zeros (s.variant.bb - s.fill.toNat) ∧
      digest.length = s.diglen.toNat ∧
      (s.variant = .b →
        lowWords 64 t.h = compress laneB (lowWords 64 s.h) (blockOf .b t.buf) (counterOf .b t.t)
          true s.lastnode ∧
        digest = serialize (lowWords 64 t.h) s.diglen.toNat) ∧
      (s.variant = .s →
        lowWords 32 t.h = compress laneS (lowWords 32 s.h) (blockOf .s t.buf) (counterOf .s t.t)
          true s.lastnode ∧
        digest = serialize (lowWords 32 t.h) s.diglen.toNat)

/-- 43_sequencer_commands.md R177 item 4: a FINAL that completes from READY leaves FINALIZED.  In every
state in FINALIZED, UPDATE and FINAL are STATE_ERROR, with no payload and no register changed, however
many of them follow one another, and DLEN still works. -/
def Obligations.FinalIsTerminal : Prop :=
  (∀ s t : State, s.phase = .ready → exec .final s = .next t →
    t.phase = .finalized ∧ t.diglen = s.diglen) ∧
  ∀ t : State, t.phase = .finalized →
    (∀ data, exec (.update data) t =
      .next { t with rout := t.rout ++ [0x02#8, 0x02#8, 0x00#8, 0x00#8] }) ∧
    exec .final t = .next { t with rout := t.rout ++ [0x02#8, 0x03#8, 0x00#8, 0x00#8] } ∧
    exec .dlen t =
      .next { t with rout := t.rout ++ [0x00#8, 0x04#8, 0x01#8, 0x00#8, t.diglen] } ∧
    ∀ is : List Instr, (∀ i ∈ is, i = .final ∨ ∃ data, i = .update data) →
      execAll is t = .next
        { t with rout := t.rout ++
            (is.map fun i => [0x02#8, (packetOf i).opc, 0x00#8, 0x00#8]).flatten }

/-- 43_sequencer_commands.md R178: DLEN. -/
def Obligations.DlenReportsTheDigestLength : Prop :=
  ∀ s : State,
    (s.phase ≠ .idle → exec .dlen s =
      .next { s with rout := s.rout ++ [0x00#8, 0x04#8, 0x01#8, 0x00#8, s.diglen] }) ∧
    (s.phase = .idle → exec .dlen s =
      .next { s with rout := s.rout ++ [0x02#8, 0x04#8, 0x00#8, 0x00#8] })

/-- 60_exceptions.md R214: every command completes in every phase, with the status and the phase of the
table, and an error status changes no register. -/
def Obligations.StatusByCommandAndPhase : Prop :=
  ∀ (i : Instr) (s : State), s.Inv → i.WellFormed →
    ∃ t st payload, exec i s = .next t ∧
      t.rout = s.rout ++ response st (packetOf i).opc payload ∧
      StatusCell s.phase i st t.phase ∧
      (st = .ok → payload.length =
        match i with
        | .final => s.diglen.toNat
        | .dlen => 1
        | _ => 0) ∧
      (st ≠ .ok → payload = [] ∧ t = { s with rout := t.rout })

/-- 43_sequencer_commands.md R179: a complete, error-free command sequence computes the BLAKE2 hash of
the concatenated payloads, from any start state and for any split of the message. -/
def Obligations.CommandSequenceComputesBlake2 : Prop :=
  ∀ (v : Variant) (ln : Bool) (op : InitOperands) (chunks : List (List Byte)) (s : State),
    (initCommand v ln op).WellFormed → LegalConfig v op →
    ∃ t, execAll (initCommand v ln op :: (chunks.map Instr.update ++ [.final])) s = .next t ∧
      t.phase = .finalized ∧
      t.rout = s.rout ++ [0x00#8, 0x01#8, 0x00#8, 0x00#8]
        ++ (chunks.map fun _ => [0x00#8, 0x02#8, 0x00#8, 0x00#8]).flatten
        ++ [0x00#8, 0x03#8, op.digestLen, 0x00#8] ++ blake2 v ln op chunks.flatten

/-! ### Invariants, safety and isolation -/

/-- 10_state.md R39: every step keeps the invariants, from every state that meets them. -/
def Obligations.StepKeepsTheInvariants : Prop :=
  ∀ s s' : State, s.Inv → step s = .next s' → s'.Inv

/-- The invariants hold after reset (10_state.md R37, R39), and so after the reset event whatever the
registers hold. -/
def Obligations.ResetMeetsTheInvariants : Prop :=
  State.reset.Inv ∧ ∀ left : State, left.resetEvent.Inv

/-- 20_memory.md R53, 60_exceptions.md R227: no access to the block buffer is out of range, nothing traps
and nothing is refused: in a state that meets the invariants a step always answers a next state.  R227
says that a held engine has no step until the host supplies bytes; that the model's step answers the
unchanged state there is the model's reading (log entry 3). -/
def Obligations.NoStepStops : Prop :=
  ∀ s : State, s.Inv → ∃ s', step s = .next s'

/-- 93_implementation_defined.md U10, 30_encoding.md R77: the response stream stays a sequence of
response packets with a status of R78 and at most 64 payload bytes. -/
def Obligations.RoutStaysWellFormed : Prop :=
  ∀ s s' : State, RoutWellFormed s.rout → step s = .next s' → RoutWellFormed s'.rout

/-- 10_state.md R20, R26, R27, R38: the engine never reads a register in IDLE, nor the parts of a register
variant S does not use: two states that agree on the rest stay so, and answer alike, step after step.
The step of a held engine, which changes nothing, is the model's reading (log entry 3). -/
def Obligations.UnusedStateIsNeverRead : Prop :=
  ∀ s1 s2 : State, SameUsed s1 s2 → SameOutcome (step s1) (step s2)

/-- The frame in variant S (10_state.md R20, R26, R27): bits 63:32 of each `h[i]`, bits 127:64 of `t` and
bytes 64 to 127 of `buf` are not written.  That a write leaves them as they were is the model's reading
(log entry 2). -/
def Obligations.VariantSWritesOnlyItsParts : Prop :=
  ∀ s s' : State, step s = .next s' → s'.variant = .s →
    (∀ i : Fin 8, s'.h[i] >>> 32 = s.h[i] >>> 32) ∧ s'.t >>> 64 = s.t >>> 64 ∧
    ∀ i, 64 ≤ i → byteAt s'.buf i = byteAt s.buf i

/-! ### The host and reset (spec/70_reset_and_hazards.md) -/

/-- 70_reset_and_hazards.md R240: reset ends in IDLE with both streams empty, whatever the other
registers hold; and so does the state right after reset. -/
def Obligations.ResetEmptiesTheEngine : Prop :=
  (∀ left : State, left.resetEvent.phase = .idle ∧ left.resetEvent.cin = [] ∧
    left.resetEvent.rout = []) ∧
  State.reset.phase = .idle ∧ State.reset.cin = [] ∧ State.reset.rout = []

/-- 70_reset_and_hazards.md R240, R242: after a reset the engine answers every byte sequence alike,
whatever the unspecified registers hold. -/
def Obligations.ResetHidesTheOldRegisters : Prop :=
  ∀ (left1 left2 : State) (bytes : List Byte) (n : Nat) (t1 t2 : State),
    core.run n (left1.resetEvent.hostWrite bytes) = .next t1 →
    core.run n (left2.resetEvent.hostWrite bytes) = .next t2 →
    t1.rout = t2.rout ∧ t1.cin = t2.cin ∧ t1.phase = t2.phase

/-- 20_memory.md R59: the host need not wait for a response before it sends the next command, nor read
`ROUT` at any time: bytes written behind a complete packet, and bytes taken from `ROUT`, do not
disturb the step; the second clause takes in the step of a held engine, which changes nothing by the
model's reading (log entry 3). -/
def Obligations.HostTrafficDoesNotDisturbAStep : Prop :=
  ∀ (s s' : State) (bytes : List Byte) (n : Nat), step s = .next s' →
    (decode s.cin ≠ .held → step (s.hostWrite bytes) = .next (s'.hostWrite bytes)) ∧
    (n ≤ s.rout.length → step (s.hostTake n) = .next (s'.hostTake n) ∧
      s'.hostTaken n = s.hostTaken n)

/-- 70_reset_and_hazards.md R247: a concatenation of `n` well-framed packets, legal or not, ends cleanly
after `n` steps with `n` response packets on `ROUT`, in order. -/
def Obligations.RunOfPacketsEndsCleanly : Prop :=
  ∀ (ks : List Packet) (s : State), (∀ k ∈ ks, k.payload.length ≤ 65535) → s.Inv →
    s.cin = (ks.map Packet.bytes).flatten →
    ∃ t rs, core.run ks.length s = .next t ∧ t.cin = [] ∧ t.rout = s.rout ++ rs.flatten ∧
      List.Forall₂ (fun k r => IsResponse k.opc r) ks rs ∧ t.Inv
end

