-- ==== Sys2Proof/Laws/State.lean ====
section
/-! SUPPORT. One lemma per field per named update of the state, each true by rfl. -/
namespace Sys2Proof.Machine

variable (s : State)

@[simp] theorem State.withCin_phase (cin : List Byte) : (s.withCin cin).phase = s.phase := rfl
@[simp] theorem State.withCin_variant (cin : List Byte) : (s.withCin cin).variant = s.variant := rfl
@[simp] theorem State.withCin_diglen (cin : List Byte) : (s.withCin cin).diglen = s.diglen := rfl
@[simp] theorem State.withCin_lastnode (cin : List Byte) : (s.withCin cin).lastnode = s.lastnode := rfl
@[simp] theorem State.withCin_h (cin : List Byte) : (s.withCin cin).h = s.h := rfl
@[simp] theorem State.withCin_t (cin : List Byte) : (s.withCin cin).t = s.t := rfl
@[simp] theorem State.withCin_buf (cin : List Byte) : (s.withCin cin).buf = s.buf := rfl
@[simp] theorem State.withCin_fill (cin : List Byte) : (s.withCin cin).fill = s.fill := rfl
@[simp] theorem State.withCin_cin (cin : List Byte) : (s.withCin cin).cin = cin := rfl
@[simp] theorem State.withCin_rout (cin : List Byte) : (s.withCin cin).rout = s.rout := rfl

@[simp] theorem State.emit_phase (bytes : List Byte) : (s.emit bytes).phase = s.phase := rfl
@[simp] theorem State.emit_variant (bytes : List Byte) : (s.emit bytes).variant = s.variant := rfl
@[simp] theorem State.emit_diglen (bytes : List Byte) : (s.emit bytes).diglen = s.diglen := rfl
@[simp] theorem State.emit_lastnode (bytes : List Byte) : (s.emit bytes).lastnode = s.lastnode := rfl
@[simp] theorem State.emit_h (bytes : List Byte) : (s.emit bytes).h = s.h := rfl
@[simp] theorem State.emit_t (bytes : List Byte) : (s.emit bytes).t = s.t := rfl
@[simp] theorem State.emit_buf (bytes : List Byte) : (s.emit bytes).buf = s.buf := rfl
@[simp] theorem State.emit_fill (bytes : List Byte) : (s.emit bytes).fill = s.fill := rfl
@[simp] theorem State.emit_cin (bytes : List Byte) : (s.emit bytes).cin = s.cin := rfl
@[simp] theorem State.emit_rout (bytes : List Byte) : (s.emit bytes).rout = s.rout ++ bytes := rfl

@[simp] theorem State.withPhase_phase (p : Phase) : (s.withPhase p).phase = p := rfl
@[simp] theorem State.withPhase_variant (p : Phase) : (s.withPhase p).variant = s.variant := rfl
@[simp] theorem State.withPhase_diglen (p : Phase) : (s.withPhase p).diglen = s.diglen := rfl
@[simp] theorem State.withPhase_lastnode (p : Phase) : (s.withPhase p).lastnode = s.lastnode := rfl
@[simp] theorem State.withPhase_h (p : Phase) : (s.withPhase p).h = s.h := rfl
@[simp] theorem State.withPhase_t (p : Phase) : (s.withPhase p).t = s.t := rfl
@[simp] theorem State.withPhase_buf (p : Phase) : (s.withPhase p).buf = s.buf := rfl
@[simp] theorem State.withPhase_fill (p : Phase) : (s.withPhase p).fill = s.fill := rfl
@[simp] theorem State.withPhase_cin (p : Phase) : (s.withPhase p).cin = s.cin := rfl
@[simp] theorem State.withPhase_rout (p : Phase) : (s.withPhase p).rout = s.rout := rfl

@[simp] theorem State.withConfig_phase (v : Variant) (d : Byte) (ln : Bool) : (s.withConfig v d ln).phase = s.phase := rfl
@[simp] theorem State.withConfig_variant (v : Variant) (d : Byte) (ln : Bool) : (s.withConfig v d ln).variant = v := rfl
@[simp] theorem State.withConfig_diglen (v : Variant) (d : Byte) (ln : Bool) : (s.withConfig v d ln).diglen = d := rfl
@[simp] theorem State.withConfig_lastnode (v : Variant) (d : Byte) (ln : Bool) : (s.withConfig v d ln).lastnode = ln := rfl
@[simp] theorem State.withConfig_h (v : Variant) (d : Byte) (ln : Bool) : (s.withConfig v d ln).h = s.h := rfl
@[simp] theorem State.withConfig_t (v : Variant) (d : Byte) (ln : Bool) : (s.withConfig v d ln).t = s.t := rfl
@[simp] theorem State.withConfig_buf (v : Variant) (d : Byte) (ln : Bool) : (s.withConfig v d ln).buf = s.buf := rfl
@[simp] theorem State.withConfig_fill (v : Variant) (d : Byte) (ln : Bool) : (s.withConfig v d ln).fill = s.fill := rfl
@[simp] theorem State.withConfig_cin (v : Variant) (d : Byte) (ln : Bool) : (s.withConfig v d ln).cin = s.cin := rfl
@[simp] theorem State.withConfig_rout (v : Variant) (d : Byte) (ln : Bool) : (s.withConfig v d ln).rout = s.rout := rfl

@[simp] theorem State.withChain_phase (h : Vector (BitVec 64) 8) (t : BitVec 128) : (s.withChain h t).phase = s.phase := rfl
@[simp] theorem State.withChain_variant (h : Vector (BitVec 64) 8) (t : BitVec 128) : (s.withChain h t).variant = s.variant := rfl
@[simp] theorem State.withChain_diglen (h : Vector (BitVec 64) 8) (t : BitVec 128) : (s.withChain h t).diglen = s.diglen := rfl
@[simp] theorem State.withChain_lastnode (h : Vector (BitVec 64) 8) (t : BitVec 128) : (s.withChain h t).lastnode = s.lastnode := rfl
@[simp] theorem State.withChain_h (h : Vector (BitVec 64) 8) (t : BitVec 128) : (s.withChain h t).h = h := rfl
@[simp] theorem State.withChain_t (h : Vector (BitVec 64) 8) (t : BitVec 128) : (s.withChain h t).t = t := rfl
@[simp] theorem State.withChain_buf (h : Vector (BitVec 64) 8) (t : BitVec 128) : (s.withChain h t).buf = s.buf := rfl
@[simp] theorem State.withChain_fill (h : Vector (BitVec 64) 8) (t : BitVec 128) : (s.withChain h t).fill = s.fill := rfl
@[simp] theorem State.withChain_cin (h : Vector (BitVec 64) 8) (t : BitVec 128) : (s.withChain h t).cin = s.cin := rfl
@[simp] theorem State.withChain_rout (h : Vector (BitVec 64) 8) (t : BitVec 128) : (s.withChain h t).rout = s.rout := rfl

@[simp] theorem State.withBlock_phase (buf : Vector Byte 128) (fill : Byte) : (s.withBlock buf fill).phase = s.phase := rfl
@[simp] theorem State.withBlock_variant (buf : Vector Byte 128) (fill : Byte) : (s.withBlock buf fill).variant = s.variant := rfl
@[simp] theorem State.withBlock_diglen (buf : Vector Byte 128) (fill : Byte) : (s.withBlock buf fill).diglen = s.diglen := rfl
@[simp] theorem State.withBlock_lastnode (buf : Vector Byte 128) (fill : Byte) : (s.withBlock buf fill).lastnode = s.lastnode := rfl
@[simp] theorem State.withBlock_h (buf : Vector Byte 128) (fill : Byte) : (s.withBlock buf fill).h = s.h := rfl
@[simp] theorem State.withBlock_t (buf : Vector Byte 128) (fill : Byte) : (s.withBlock buf fill).t = s.t := rfl
@[simp] theorem State.withBlock_buf (buf : Vector Byte 128) (fill : Byte) : (s.withBlock buf fill).buf = buf := rfl
@[simp] theorem State.withBlock_fill (buf : Vector Byte 128) (fill : Byte) : (s.withBlock buf fill).fill = fill := rfl
@[simp] theorem State.withBlock_cin (buf : Vector Byte 128) (fill : Byte) : (s.withBlock buf fill).cin = s.cin := rfl
@[simp] theorem State.withBlock_rout (buf : Vector Byte 128) (fill : Byte) : (s.withBlock buf fill).rout = s.rout := rfl

@[simp] theorem State.hostWrite_phase (bytes : List Byte) : (s.hostWrite bytes).phase = s.phase := rfl
@[simp] theorem State.hostWrite_variant (bytes : List Byte) : (s.hostWrite bytes).variant = s.variant := rfl
@[simp] theorem State.hostWrite_diglen (bytes : List Byte) : (s.hostWrite bytes).diglen = s.diglen := rfl
@[simp] theorem State.hostWrite_lastnode (bytes : List Byte) : (s.hostWrite bytes).lastnode = s.lastnode := rfl
@[simp] theorem State.hostWrite_h (bytes : List Byte) : (s.hostWrite bytes).h = s.h := rfl
@[simp] theorem State.hostWrite_t (bytes : List Byte) : (s.hostWrite bytes).t = s.t := rfl
@[simp] theorem State.hostWrite_buf (bytes : List Byte) : (s.hostWrite bytes).buf = s.buf := rfl
@[simp] theorem State.hostWrite_fill (bytes : List Byte) : (s.hostWrite bytes).fill = s.fill := rfl
@[simp] theorem State.hostWrite_cin (bytes : List Byte) : (s.hostWrite bytes).cin = s.cin ++ bytes := rfl
@[simp] theorem State.hostWrite_rout (bytes : List Byte) : (s.hostWrite bytes).rout = s.rout := rfl

@[simp] theorem State.hostTake_phase (n : Nat) : (s.hostTake n).phase = s.phase := rfl
@[simp] theorem State.hostTake_variant (n : Nat) : (s.hostTake n).variant = s.variant := rfl
@[simp] theorem State.hostTake_diglen (n : Nat) : (s.hostTake n).diglen = s.diglen := rfl
@[simp] theorem State.hostTake_lastnode (n : Nat) : (s.hostTake n).lastnode = s.lastnode := rfl
@[simp] theorem State.hostTake_h (n : Nat) : (s.hostTake n).h = s.h := rfl
@[simp] theorem State.hostTake_t (n : Nat) : (s.hostTake n).t = s.t := rfl
@[simp] theorem State.hostTake_buf (n : Nat) : (s.hostTake n).buf = s.buf := rfl
@[simp] theorem State.hostTake_fill (n : Nat) : (s.hostTake n).fill = s.fill := rfl
@[simp] theorem State.hostTake_cin (n : Nat) : (s.hostTake n).cin = s.cin := rfl
@[simp] theorem State.hostTake_rout (n : Nat) : (s.hostTake n).rout = s.rout.drop n := rfl

@[simp] theorem State.resetEvent_phase : (s.resetEvent).phase = Phase.idle := rfl
@[simp] theorem State.resetEvent_variant : (s.resetEvent).variant = s.variant := rfl
@[simp] theorem State.resetEvent_diglen : (s.resetEvent).diglen = s.diglen := rfl
@[simp] theorem State.resetEvent_lastnode : (s.resetEvent).lastnode = s.lastnode := rfl
@[simp] theorem State.resetEvent_h : (s.resetEvent).h = s.h := rfl
@[simp] theorem State.resetEvent_t : (s.resetEvent).t = s.t := rfl
@[simp] theorem State.resetEvent_buf : (s.resetEvent).buf = s.buf := rfl
@[simp] theorem State.resetEvent_fill : (s.resetEvent).fill = s.fill := rfl
@[simp] theorem State.resetEvent_cin : (s.resetEvent).cin = [] := rfl
@[simp] theorem State.resetEvent_rout : (s.resetEvent).rout = [] := rfl

@[simp] theorem State.withFetchWord_cin (nbits w : Nat) :
    (s.withFetchWord nbits w).cin = tablePacket nbits w ++ s.cin := rfl

end Sys2Proof.Machine
end

