-- ==== Sys2Proof/Laws/Words.lean ====
section
/-! SUPPORT. Small lemmas about byte sequences, the little-endian functions and the views of the
registers (spec/40_wordops.md R104, R105; spec/10_state.md R20, R26). -/
namespace Sys2Proof.Machine

@[simp] theorem zeros_length (n : Nat) : (zeros n).length = n := by simp [zeros]

@[simp] theorem zeros_zero : zeros 0 = [] := rfl

@[simp] theorem slice_length (s : List Byte) (a n : Nat) :
    (slice s a n).length = min n (s.length - a) := by simp [slice]

@[simp] theorem storeLe_length (x n : Nat) : (storeLe x n).length = n := by
  induction n generalizing x with
  | zero => rfl
  | succ n ih => simp [storeLe, ih]

/-- The two length bytes of a header, read back (30_encoding.md R71). -/
theorem loadLe_pair (n : Nat) (h : n < 65536) :
    loadLe [BitVec.ofNat 8 n, BitVec.ofNat 8 (n / 256)] = n := by
  simp [loadLe]; omega

theorem storeLe_pair (n : Nat) :
    storeLe n 2 = [BitVec.ofNat 8 n, BitVec.ofNat 8 (n / 256)] := rfl

/-! ### Register views: what is written is what is read -/

theorem setWidth_setLowWord {w : Nat} (x : BitVec w) (old : BitVec 64) (hw : w ≤ 64) :
    (setLowWord x old).setWidth w = x := by
  ext i hi
  have h64 : i < 64 := by omega
  simp [setLowWord, hi, h64]

/-- The words read after a write of all eight are the words written (10_state.md R20). -/
theorem lowWords_setLowWords {w : Nat} (x : Vector (BitVec w) 8) (old : Vector (BitVec 64) 8)
    (hw : w ≤ 64) : lowWords w (setLowWords x old) = x := by
  ext1 i hi
  have h8 : i = 0 ∨ i = 1 ∨ i = 2 ∨ i = 3 ∨ i = 4 ∨ i = 5 ∨ i = 6 ∨ i = 7 := by omega
  rcases h8 with rfl | rfl | rfl | rfl | rfl | rfl | rfl | rfl <;>
    simp [lowWords, setLowWords, setWidth_setLowWord, hw]

/-- In variant B a write replaces the whole register (10_state.md R20). -/
theorem setLowWord_full (x old : BitVec 64) : setLowWord x old = x := by
  have h := setWidth_setLowWord x old (Nat.le_refl 64)
  simpa using h

theorem setLowWords_full (x old : Vector (BitVec 64) 8) : setLowWords x old = x := by
  ext1 i hi
  have h8 : i = 0 ∨ i = 1 ∨ i = 2 ∨ i = 3 ∨ i = 4 ∨ i = 5 ∨ i = 6 ∨ i = 7 := by omega
  rcases h8 with rfl | rfl | rfl | rfl | rfl | rfl | rfl | rfl <;>
    simp [setLowWords, setLowWord_full]

@[simp] theorem lowWords_full (h : Vector (BitVec 64) 8) : lowWords 64 h = h := by
  ext1 i hi
  have h8 : i = 0 ∨ i = 1 ∨ i = 2 ∨ i = 3 ∨ i = 4 ∨ i = 5 ∨ i = 6 ∨ i = 7 := by omega
  rcases h8 with rfl | rfl | rfl | rfl | rfl | rfl | rfl | rfl <;> simp [lowWords]

/-- The counter read after a write is the value written modulo `2^CW` (10_state.md R26). -/
theorem counterOf_setCounter (v : Variant) (x : Nat) (old : BitVec 128) :
    counterOf v (setCounter v x old) = x % 2 ^ v.cw := by
  have hcw : v.cw ≤ 128 := by cases v <;> decide
  have hlow : (setCounter v x old).setWidth v.cw = BitVec.ofNat v.cw x := by
    ext i hi
    have h128 : i < 128 := by omega
    simp [setCounter, hi, h128, ← BitVec.getLsbD_eq_getElem, BitVec.getLsbD_ofNat, Nat.testBit_mod_two_pow]
  simpa [counterOf, ← BitVec.toNat_setWidth] using congrArg BitVec.toNat hlow

/-- `t` after an advance, as the rules of UPDATE and FINAL give it (43_sequencer_commands.md R174,
R176). -/
theorem counterOf_advanceCounter (v : Variant) (n : Nat) (t : BitVec 128) :
    counterOf v (advanceCounter v n t) = (counterOf v t + n) % 2 ^ v.cw :=
  counterOf_setCounter v _ t

/-! ### The block buffer -/

theorem byteAt_putBytes (buf : Vector Byte 128) (a : Nat) (s : List Byte) (i : Nat) :
    byteAt (putBytes buf a s) i =
      if a ≤ i ∧ i < a + s.length ∧ i < 128 then s.getD (i - a) 0#8 else byteAt buf i := by
  induction s generalizing buf a with
  | nil => simp [putBytes]; omega
  | cons b bs ih =>
    have hset : byteAt (buf.setIfInBounds a b) i = if i = a ∧ i < 128 then b else byteAt buf i := by
      simp only [byteAt, Vector.setIfInBounds, Array.toList_setIfInBounds, Vector.toList,
        List.getD_eq_getElem?_getD, List.getElem?_set]
      by_cases hia : a = i
      · subst hia; by_cases h : a < 128 <;> simp [h]
      · simp [hia, Ne.symm hia]
    simp only [putBytes, ih, hset, List.length_cons]
    by_cases h1 : a + 1 ≤ i ∧ i < a + 1 + bs.length ∧ i < 128
    · have : i - a = (i - (a + 1)) + 1 := by omega
      rw [if_pos h1, if_pos (by omega), this]; simp
    · rw [if_neg h1]
      by_cases h2 : i = a ∧ i < 128
      · obtain ⟨rfl, h128⟩ := h2
        simp [h128]
      · rw [if_neg h2, if_neg (by omega)]

/-- Everything a write of the buffer can do: it happens exactly when it stays within the `BB` bytes of
the variant, and then every byte outside the written ones reads as before
(20_memory.md R52, R53). -/
theorem memWrite_eq_some (v : Variant) (buf buf' : Vector Byte 128) (a : Nat) (s : List Byte)
    (h : memWrite v buf a s = some buf') :
    a + s.length ≤ v.bb ∧
      ∀ i, byteAt buf' i =
        if a ≤ i ∧ i < a + s.length then s.getD (i - a) 0#8 else byteAt buf i := by
  unfold memWrite at h
  split at h
  case isTrue hle =>
    cases h
    refine ⟨hle, fun i => ?_⟩
    have hbb : v.bb ≤ 128 := by cases v <;> decide
    rw [byteAt_putBytes]
    by_cases hi : a ≤ i ∧ i < a + s.length
    · rw [if_pos (by omega), if_pos hi]
    · rw [if_neg (by omega), if_neg hi]
  case isFalse => cases h

theorem memWrite_of_le (v : Variant) (buf : Vector Byte 128) (a : Nat) (s : List Byte)
    (h : a + s.length ≤ v.bb) : memWrite v buf a s = some (putBytes buf a s) := if_pos h

theorem memWrite_eq_none (v : Variant) (buf : Vector Byte 128) (a : Nat) (s : List Byte)
    (h : v.bb < a + s.length) : memWrite v buf a s = none := if_neg (Nat.not_le_of_lt h)

end Sys2Proof.Machine
end

