-- ==== Sys2Proof/Laws/Commands.lean ====
section
/-! SUPPORT. What each shared operation and each command can do, said once: later proofs cite these
instead of unfolding the meanings. -/
namespace Sys2Proof.Machine

/-- Everything taking an error can do: one response, nothing else (60_exceptions.md R218). -/
theorem raiseError_eq (st : Status) (opc : Byte) (s : State) :
    raiseError st opc s = .next { s with rout := s.rout ++ [statusCode st, opc, 0#8, 0#8] } := rfl

/-- Everything completing a command can do: one response, nothing else (30_encoding.md R77). -/
theorem respondOk_eq (opc : Byte) (payload : List Byte) (s : State) :
    respondOk opc payload s = .next { s with rout := s.rout ++ response .ok opc payload } := rfl

/-- Everything one pass of the loop of UPDATE can do (43_sequencer_commands.md R174). -/
theorem absorbByte_cases {b : Byte} {s s' : State} (h : absorbByte b s = some s') :
    ∃ s1 buf,
      ((s.fill.toNat = s.variant.bb ∧ s1 = s.startBlock) ∨
        (s.fill.toNat ≠ s.variant.bb ∧ s1 = s)) ∧
      memWrite s1.variant s1.buf s1.fill.toNat [b] = some buf ∧
      s' = s1.withBlock buf (s1.fill + 1#8) := by
  simp only [absorbByte] at h
  split at h
  · next buf hbuf =>
    cases h
    by_cases hf : s.fill.toNat = s.variant.bb
    · rw [if_pos hf] at hbuf ⊢
      exact ⟨_, buf, .inl ⟨hf, rfl⟩, hbuf, rfl⟩
    · rw [if_neg hf] at hbuf ⊢
      exact ⟨_, buf, .inr ⟨hf, rfl⟩, hbuf, rfl⟩
  · cases h

/-- The registers the loop of UPDATE never writes (43_sequencer_commands.md R174). -/
theorem absorbByte_frame {b : Byte} {s s' : State} (h : absorbByte b s = some s') :
    s'.phase = s.phase ∧ s'.variant = s.variant ∧ s'.diglen = s.diglen ∧
      s'.lastnode = s.lastnode ∧ s'.cin = s.cin ∧ s'.rout = s.rout := by
  obtain ⟨s1, buf, ⟨-, rfl⟩ | ⟨-, rfl⟩, -, rfl⟩ := absorbByte_cases h <;>
    exact ⟨rfl, rfl, rfl, rfl, rfl, rfl⟩

/-- The same for the whole payload. -/
theorem absorb_frame {data : List Byte} {s s' : State} (h : absorb data s = some s') :
    s'.phase = s.phase ∧ s'.variant = s.variant ∧ s'.diglen = s.diglen ∧
      s'.lastnode = s.lastnode ∧ s'.cin = s.cin ∧ s'.rout = s.rout := by
  induction data generalizing s with
  | nil => cases h; exact ⟨rfl, rfl, rfl, rfl, rfl, rfl⟩
  | cons b bs ih =>
    simp only [absorb] at h
    split at h
    · next s1 h1 =>
      obtain ⟨a1, a2, a3, a4, a5, a6⟩ := ih h
      obtain ⟨b1, b2, b3, b4, b5, b6⟩ := absorbByte_frame h1
      exact ⟨a1.trans b1, a2.trans b2, a3.trans b3, a4.trans b4, a5.trans b5, a6.trans b6⟩
    · cases h

/-- Everything INIT can do (43_sequencer_commands.md R173): the one premise under which the model
stops is a key block longer than `BB`, which no packet with a legal key length carries. -/
theorem doInit_cases (v : Variant) (ln : Bool) (op : InitOperands) (s : State) :
    (configOk v op = false ∧ doInit v ln op s = raiseError .configError opcInit s) ∨
    (configOk v op = true ∧ ∃ buf, memWrite v s.buf 0 (initialBlock v op) = some buf ∧
      doInit v ln op s = .next
        { phase := .ready, variant := v, diglen := op.digestLen, lastnode := ln,
          h := initialRegs v op s.h, t := setCounter v 0 s.t, buf := buf,
          fill := initialFill v op, cin := s.cin,
          rout := s.rout ++ response .ok opcInit [] }) ∨
    (configOk v op = true ∧ memWrite v s.buf 0 (initialBlock v op) = none ∧
      doInit v ln op s = .fault .bufferRange) := by
  unfold doInit
  cases hc : configOk v op with
  | false => exact .inl ⟨rfl, rfl⟩
  | true =>
    cases hm : memWrite v s.buf 0 (initialBlock v op) with
    | none => exact .inr (.inr ⟨rfl, rfl, rfl⟩)
    | some buf => exact .inr (.inl ⟨rfl, buf, rfl, rfl⟩)

/-- Everything UPDATE can do (43_sequencer_commands.md R174). -/
theorem execUpdate_cases (data : List Byte) (s : State) :
    (s.phase ≠ .ready ∧ execUpdate data s = raiseError .stateError opcUpdate s) ∨
    (s.phase = .ready ∧ ∃ s', absorb data s = some s' ∧
      execUpdate data s = respondOk opcUpdate [] s') ∨
    (s.phase = .ready ∧ absorb data s = none ∧ execUpdate data s = .fault .bufferRange) := by
  unfold execUpdate
  by_cases hp : s.phase = .ready
  · rw [if_pos hp]
    cases ha : absorb data s with
    | none => exact .inr (.inr ⟨hp, rfl, rfl⟩)
    | some s' => exact .inr (.inl ⟨hp, s', rfl, rfl⟩)
  · rw [if_neg hp]
    exact .inl ⟨hp, rfl⟩

/-- Everything FINAL can do (43_sequencer_commands.md R176). -/
theorem execFinal_cases (s : State) :
    (s.phase ≠ .ready ∧ execFinal s = raiseError .stateError opcFinal s) ∨
    (s.phase = .ready ∧ ∃ buf t h,
      memWrite s.variant s.buf s.fill.toNat (zeros (s.variant.bb - s.fill.toNat)) = some buf ∧
      t = advanceCounter s.variant s.fill.toNat s.t ∧
      h = compressRegs s.variant s.h buf t true s.lastnode ∧
      execFinal s = .next
        { s with phase := .finalized, h := h, t := t, buf := buf,
                 rout := s.rout ++ response .ok opcFinal (digestOf s.variant h s.diglen.toNat) }) ∨
    (s.phase = .ready ∧ s.variant.bb < s.fill.toNat ∧ execFinal s = .fault .bufferRange) := by
  unfold execFinal
  by_cases hp : s.phase = .ready
  · rw [if_pos hp]
    cases hm : memWrite s.variant s.buf s.fill.toNat (zeros (s.variant.bb - s.fill.toNat)) with
    | none =>
      refine .inr (.inr ⟨hp, ?_, rfl⟩)
      by_contra hle
      rw [memWrite_of_le _ _ _ _ (by simp; omega)] at hm
      cases hm
    | some buf => exact .inr (.inl ⟨hp, buf, _, _, rfl, rfl, rfl, rfl⟩)
  · rw [if_neg hp]
    exact .inl ⟨hp, rfl⟩

/-- Everything DLEN can do (43_sequencer_commands.md R178). -/
theorem execDlen_cases (s : State) :
    (s.phase = .idle ∧ execDlen s = raiseError .stateError opcDlen s) ∨
    (s.phase ≠ .idle ∧ execDlen s = respondOk opcDlen [s.diglen] s) := by
  unfold execDlen
  by_cases hp : s.phase = .idle
  · exact .inl ⟨hp, if_pos hp⟩
  · exact .inr ⟨hp, if_neg hp⟩

/-- The length of a digest (44_digest_serializer.md R200). -/
theorem digestOf_length (v : Variant) (h : Vector (BitVec 64) 8) (n : Nat) :
    (digestOf v h n).length = min n (8 * v.wb) := by
  cases v <;>
    simp [digestOf, serialize, lowWords, List.flatMap, Variant.wb]

/-- Everything a step can do (30_encoding.md R82, R83). -/
theorem step_cases (s : State) :
    (takePacket s.cin = none ∧ step s = .next s) ∨
    (∃ k rest, takePacket s.cin = some (k, rest) ∧
      ((∃ why, decodePacket k = .error why ∧
          step s = raiseError .badCommand k.opc (s.withCin rest)) ∨
       (∃ i, decodePacket k = .ok i ∧ step s = exec i (s.withCin rest)))) := by
  unfold step decode
  cases hp : takePacket s.cin with
  | none => exact .inl ⟨rfl, rfl⟩
  | some kr =>
    obtain ⟨k, rest⟩ := kr
    refine .inr ⟨k, rest, rfl, ?_⟩
    cases hd : decodePacket k with
    | error why => exact .inl ⟨why, rfl, by simp [hd]⟩
    | ok i => exact .inr ⟨i, rfl, by simp [hd]⟩

end Sys2Proof.Machine
end

