-- ==== Sys2Proof/Laws/PerInstr.lean ====
section
/-! SUPPORT. One fact about every command as syntax: its encoded packet is framed by its own header,
so the bytes that follow it are not read (spec/30_encoding.md R70, R71, R83). -/
namespace Sys2Proof

open Machine

/-- A packet whose payload fits the `LEN` field is taken whole from the head of a stream
(30_encoding.md R70, R82). -/
theorem takePacket_bytes (k : Packet) (rest : List Byte) (h : k.payload.length < 65536) :
    takePacket (k.bytes ++ rest) = some (k, rest) := by
  obtain ⟨opc, arg, p⟩ := k
  have hp := loadLe_pair p.length h
  simp only [Packet.bytes, storeLe_pair, List.cons_append, List.nil_append, takePacket, hp]
  rw [if_neg (by simp)]
  simp

/-- The length of an INIT payload (30_encoding.md R72). -/
theorem initPayload_length (op : InitOperands) :
    (initPayload op).length = 20 + op.key.length + op.salt.length + op.pers.length := by
  simp [initPayload]; omega

/-- Well-formedness of INIT operands, in plain terms (30_encoding.md R72). -/
theorem InitOperands.wellFormed_iff (op : InitOperands) :
    op.wellFormed = true ↔
      op.key.length = op.keyLen.toNat ∧ op.salt.length < 256 ∧ op.pers.length < 256 := by
  simp [InitOperands.wellFormed, InitOperands.keyFits, InitOperands.saltFits,
    InitOperands.persFits, Config.byteLengthBound, and_assoc]

/-- A well-formed INIT payload fits the `LEN` field: at most `20 + 3*255` bytes (40_wordops.md R106). -/
theorem initPayload_fits (op : InitOperands) (h : op.wellFormed = true) :
    (initPayload op).length < 65536 := by
  obtain ⟨hk, hs, hp⟩ := op.wellFormed_iff.mp h
  have := op.keyLen.isLt
  rw [initPayload_length]; omega

namespace Laws.Framing

/-- The packet of a well-formed command is taken whole, whatever follows it. -/
def Statement (i : Instr) : Prop :=
  i.WellFormed → ∀ rest, takePacket (encode i ++ rest) = some (packetOf i, rest)

theorem initB (lastnode : Bool) (op : InitOperands) : Statement (.initB lastnode op) :=
  fun h rest => takePacket_bytes _ rest (initPayload_fits op h)

theorem initS (lastnode : Bool) (op : InitOperands) : Statement (.initS lastnode op) :=
  fun h rest => takePacket_bytes _ rest
    (initPayload_fits op (by simp only [Instr.WellFormed, Instr.wellFormed, Bool.and_eq_true] at h; exact h.1))

theorem update (data : List Byte) : Statement (.update data) :=
  fun h rest => takePacket_bytes _ rest (by
    simp only [Instr.WellFormed, Instr.wellFormed, Config.maxLen, decide_eq_true_eq] at h
    simp only [packetOf]; omega)

theorem final : Statement .final := fun _ rest => takePacket_bytes _ rest (by decide)

theorem dlen : Statement .dlen := fun _ rest => takePacket_bytes _ rest (by decide)

end Laws.Framing

end Sys2Proof
end

