-- ==== Sys2Proof/Tests/Samples.lean ====
section
/-! SUPPORT. Small commands and states for the tests and the witnesses. -/
namespace Sys2Proof.Tests

open Sys2Proof Sys2Proof.Machine

/-- The operands of `INIT dl=<d>` in the notation of 30_encoding.md R84. -/
def plainOps (d : Byte) : InitOperands := ⟨d, 0, 1, 1, 0, 0, 0, 0, [], [], []⟩

/-- The operands of the third packet of 30_encoding.md R86. -/
def fullOps : InitOperands :=
  ⟨16, 3, 2, 3, 0x11223344, 0x010203040506, 4, 5, [0x00, 0x01, 0x02], [0xAA, 0xBB], [0xCC]⟩

/-- The first `n` bytes of `a, a+1, ...`. -/
def ramp (a n : Nat) : List Byte := (List.range n).map fun k => BitVec.ofNat 8 (a + k)

/-- The state a command leaves (the state before it where it stops). -/
def after (i : Instr) (s : State) : State :=
  match exec i s with
  | .next t => t
  | _ => s

/-- After `INIT.B dl=64`. -/
def readyB : State := after (.initB false (plainOps 64)) State.reset
/-- After `INIT.S dl=32`. -/
def readyS : State := after (.initS false (plainOps 32)) State.reset
/-- After `INIT.B dl=64 key=01`: a full buffer. -/
def keyedB : State := after (.initB false { plainOps 64 with keyLen := 1, key := [1] }) State.reset
/-- After `INIT.S dl=32 key=01`: a full buffer. -/
def keyedS : State := after (.initS false { plainOps 32 with keyLen := 1, key := [1] }) State.reset
/-- After `INIT.B dl=64`, `FINAL`. -/
def doneB : State := after .final readyB

/-- Whether an outcome is a next state. -/
def isNext (o : Host.Outcome State Fault Refusal) : Bool :=
  match o with
  | .next _ => true
  | _ => false

/-- The state a step leaves. -/
def stepped (s : State) : State :=
  match step s with
  | .next t => t
  | _ => s

theorem exec_eq_after {i : Instr} {s : State} (h : isNext (exec i s) = true) :
    exec i s = .next (after i s) := by
  unfold after
  cases hx : exec i s with
  | next t => rfl
  | fault f => rw [hx] at h; cases h
  | refused r => rw [hx] at h; cases h

theorem step_eq_stepped {s : State} (h : isNext (step s) = true) : step s = .next (stepped s) := by
  unfold stepped
  cases hx : step s with
  | next t => rfl
  | fault f => rw [hx] at h; cases h
  | refused r => rw [hx] at h; cases h

end Sys2Proof.Tests
end

