-- ==== Sys2Proof/Tests/Slice0.lean ====
section
/-! SUPPORT. The model's own tests: expected values are the vectors of spec/95_test_vectors.md and the worked
examples of the rules. -/
namespace Sys2Proof.Tests

-- One theorem after another: a kernel evaluation per thread would exhaust the memory limit.
set_option Elab.async false

open Sys2Proof Sys2Proof.Machine

/-! ### Well-formedness refuses an ill-formed term, one for each check -/

theorem test_wf_key_length : ¬ (Instr.initB false { fullOps with keyLen := 2 }).WellFormed := by decide
theorem test_wf_salt_length :
    ¬ (Instr.initB false { fullOps with salt := zeros 256 }).WellFormed := by decide +kernel
theorem test_wf_pers_length :
    ¬ (Instr.initS false { fullOps with pers := zeros 256 }).WellFormed := by decide +kernel
theorem test_wf_node_offset :
    ¬ (Instr.initS false { fullOps with nodeOffset := 0x1000000000000 }).WellFormed := by decide
theorem test_wf_data_length : ¬ (Instr.update (zeros 65536)).WellFormed := by
  have h : (zeros 65536).length = 65536 := List.length_replicate
  simp only [Instr.WellFormed, Instr.wellFormed, h]
  decide
theorem test_wf_good : (Instr.initS true fullOps).WellFormed := by decide

/-! ### Decoding words written out from 30_encoding.md R72 to R75 (vectors R86 and group D) -/

theorem test_decode_initB : decode ([0x01, 0x00, 0x14, 0x00, 0x40, 0x00, 0x01, 0x01] ++ zeros 16)
    = .command (.initB false (plainOps 64)) [] := by decide
theorem test_decode_initS : decode [0x01, 0x03, 0x1A, 0x00, 0x10, 0x03, 0x02, 0x03, 0x44, 0x33, 0x22,
      0x11, 0x06, 0x05, 0x04, 0x03, 0x02, 0x01, 0x00, 0x00, 0x04, 0x05, 0x02, 0x01, 0x00, 0x01, 0x02,
      0xAA, 0xBB, 0xCC, 0x99]
    = .command (.initS true fullOps) [0x99] := by decide
theorem test_decode_update : decode [0x02, 0x00, 0x03, 0x00, 0x61, 0x62, 0x63, 0x04]
    = .command (.update [0x61, 0x62, 0x63]) [0x04] := by decide
theorem test_decode_final : decode [0x03, 0x00, 0x00, 0x00] = .command .final [] := by decide
theorem test_decode_dlen : decode [0x04, 0x00, 0x00, 0x00] = .command .dlen [] := by decide
theorem test_decode_D3 : decode [0xFF, 0xFF, 0x03, 0x00, 0x01, 0x02, 0x03]
    = .bad 0xFF .reservedOpcode [] := by decide
theorem test_decode_D4 : decode ([0x01, 0x04, 0x14, 0x00, 0x40, 0x00, 0x01, 0x01] ++ zeros 16)
    = .bad 0x01 .reservedArg [] := by decide
theorem test_decode_D8 : decode ([0x01, 0x00, 0x13, 0x00, 0x40, 0x00, 0x01, 0x01] ++ zeros 15)
    = .bad 0x01 .initTooShort [] := by decide
theorem test_decode_D11 : decode ([0x01, 0x00, 0x14, 0x00, 0x40, 0x01, 0x01, 0x01] ++ zeros 16)
    = .bad 0x01 .initLengthMismatch [] := by decide
theorem test_decode_D18 : decode ([0x01, 0x01, 0x14, 0x00, 0x20, 0x00, 0x01, 0x01] ++ zeros 11
      ++ [0x80] ++ zeros 4) = .bad 0x01 .nodeOffsetReserved [] := by decide
theorem test_decode_D24 : decode [0x03, 0x00, 0x01, 0x00, 0x00]
    = .bad 0x03 .unexpectedPayload [] := by decide
theorem test_decode_held : decode [0x02, 0x00, 0x03, 0x00, 0x61, 0x62] = .held := by decide
theorem test_table_word_initB :
    decodeTableWord 32 0x00140001 = some (.initB false (plainOps 0 |> fun o =>
      { o with fanout := 0, depth := 0 })) := by decide
theorem test_table_word_final : decodeTableWord 32 0x00000003 = some .final := by decide

/-! ### INIT (42_parameter_block.md R157 c, vector E19; program 5, vector D7) -/

theorem test_initB_all_fields :
    (after (.initB true ⟨32, 4, 2, 3, 0x11223344, 0x0102030405060708, 4, 64, [1, 2, 3, 4],
      ramp 0x10 16, [0x42, 0x32, 0x43, 0x45]⟩) State.reset).h.toList =
    [0x7B2BD523F0BECD28, 0xBA65AD8181CCA033, 0x3C6EF372FE94B82F, 0xA54FF53A5F1D36F1,
     0x4618476BBEF493C1, 0x841B759030247507, 0x1F83D9ABBE028F29, 0x5BE0CD19137E2179] := by
  decide +kernel
theorem test_initB_digest_65 :
    (after (.initB false (plainOps 65)) readyB).rout = readyB.rout ++ [0x01, 0x01, 0x00, 0x00] := by
  decide +kernel
theorem test_initS_all_fields :
    ((after (.initS true fullOps) State.reset).h.toList.map BitVec.toNat =
      [0x690BE577, 0xAA459DC1, 0x3F6AF674, 0xA04BF438, 0x510EE9D5, 0x9B05688C, 0x1F83D967, 0x5BE0CD19])
    ∧ (after (.initS true fullOps) State.reset).fill = 64
    ∧ blockOf .s (after (.initS true fullOps) State.reset).buf = [0, 1, 2] ++ zeros 61 := by
  decide +kernel
theorem test_initS_digest_64 :
    (after (.initS true (plainOps 64)) State.reset).rout = [0x01, 0x01, 0x00, 0x00] := by decide +kernel

/-! ### UPDATE (program 2 step 3; vector U2) -/

theorem test_update_key_block :
    let s := after (.initS false { plainOps 32 with keyLen := 32, key := ramp 0 32 }) State.reset
    let t := after (.update (ramp 0x80 63)) s
    t.h.toList.map BitVec.toNat = [0xE065E50D, 0x01A7D670, 0xC933BBA4, 0x866AA41E, 0x18AB3E05,
      0x26EDC492, 0x04C59A4F, 0x95DD5A91] ∧ t.t = 64 ∧ t.fill = 63 ∧ byteAt t.buf 63 = 0 := by
  decide +kernel
theorem test_update_exactly_full :
    let t := after (.update (ramp 0 128)) readyB
    t.fill = 128 ∧ t.t = 0 ∧ t.h = readyB.h ∧ byteAt t.buf 127 = 0x7F := by decide +kernel

/-! ### FINAL (vectors K3 and T12) -/

theorem test_final_abc_B :
    (after .final (after (.update [0x61, 0x62, 0x63]) readyB)).rout.drop 8 =
    [0x00, 0x03, 0x40, 0x00,
     0xBA, 0x80, 0xA5, 0x3F, 0x98, 0x1C, 0x4D, 0x0D, 0x6A, 0x27, 0x97, 0xB6, 0x9F, 0x12, 0xF6, 0xE9,
     0x4C, 0x21, 0x2F, 0x14, 0x68, 0x5A, 0xC4, 0xB7, 0x4B, 0x12, 0xBB, 0x6F, 0xDB, 0xFF, 0xA2, 0xD1,
     0x7D, 0x87, 0xC5, 0x39, 0x2A, 0xAB, 0x79, 0x2D, 0xC2, 0x52, 0xD5, 0xDE, 0x45, 0x33, 0xCC, 0x95,
     0x18, 0xD3, 0x8A, 0xA8, 0xDB, 0xF1, 0x92, 0x5A, 0xB9, 0x23, 0x86, 0xED, 0xD4, 0x00, 0x99, 0x23] := by
  decide +kernel
theorem test_final_tree_node_S :
    (after .final (after (.update [0x61, 0x62, 0x63]) (after (.initS true fullOps) State.reset))).rout.drop 8
    = [0x00, 0x03, 0x10, 0x00, 0xE7, 0x4D, 0x21, 0xEC, 0xB0, 0x87, 0x21, 0xB5, 0x4F, 0xA9, 0x53, 0x07,
       0x34, 0x84, 0x9F, 0xAE] := by decide +kernel

/-! ### DLEN (vectors E6, E17) -/

theorem test_dlen_idle : (after .dlen State.reset).rout = [0x02, 0x04, 0x00, 0x00] := by decide +kernel
theorem test_dlen_finalized :
    (after .dlen doneB).rout = doneB.rout ++ [0x00, 0x04, 0x01, 0x00, 0x40] := by decide +kernel

end Sys2Proof.Tests
end

