-- ==== Sys2Proof/Tests/Witnesses.lean ====
section
/-! SUPPORT. For every statement with hypotheses, concrete values that meet them all together, at the
boundaries where its clauses meet. -/
namespace Sys2Proof.Tests

-- One theorem after another: a kernel evaluation per thread would exhaust the memory limit.
set_option Elab.async false

open Sys2Proof Sys2Proof.Machine

/-! ### Word operations, G, F, parameter block, serializer -/

theorem witness_RotrMovesEveryBit : (0 < 63 ∧ 63 < 64) ∧ (0 < 1 ∧ 1 < 32) := by decide
theorem witness_StoreLeAndLoadLeAreInverse : (0 : Nat) < 2 ^ (8 * 0) ∧ 255 < 2 ^ (8 * 1) := by decide
theorem witness_CounterSplitsIntoHalves : 2 ^ 64 - 1 < 2 ^ (2 * 32) := by decide
theorem witness_MixTakesTheEightSteps :
    ∀ g ∈ columnCalls ++ diagonalCalls,
      g.a ≠ g.b ∧ g.a ≠ g.c ∧ g.a ≠ g.d ∧ g.b ≠ g.c ∧ g.b ≠ g.d ∧ g.c ≠ g.d := by decide
theorem witness_MixTouchesOnlyItsFourWords :
    ∃ g : GCall, ∃ i : Fin 16, i ≠ g.a ∧ i ≠ g.b ∧ i ≠ g.c ∧ i ≠ g.d :=
  ⟨⟨0, 4, 8, 12, 0, 1⟩, 15, by decide⟩
theorem witness_CallsOfOneKindRunInAnyOrder :
    columnCalls.reverse.Perm columnCalls ∧ diagonalCalls.reverse.Perm diagonalCalls :=
  ⟨List.reverse_perm _, List.reverse_perm _⟩
theorem witness_MessageWordsHoldTheBlock : (zeros 128).length = 128 ∧ (zeros 64).length = 64 := by simp
theorem witness_ParameterBlockLayoutB :
    (zeros 16).length ≤ 16 ∧ fullOps.salt.length ≤ 16 ∧ fullOps.pers.length ≤ 16 := by decide
theorem witness_ParameterBlockLayoutS :
    (zeros 8).length ≤ 8 ∧ fullOps.salt.length ≤ 8 ∧ fullOps.pers.length ≤ 8 ∧
      fullOps.nodeOffset.toNat < 2 ^ 48 ∧ (0xFFFFFFFFFFFF#64).toNat < 2 ^ 48 := by decide
theorem witness_ShortSaltIsZeroPadded :
    fullOps.salt.length ≤ 8 ∧ fullOps.pers.length ≤ 8 ∧ fullOps.salt.length ≤ 16 := by decide
theorem witness_SerializeWritesWordsLittleEndian :
    ((64 : Nat) ≤ 64 ∧ (63 : Fin 64).val < 64) ∧ ((32 : Nat) ≤ 32 ∧ (31 : Fin 32).val < 32) := by decide

/-! ### Encoding and decoding -/

theorem witness_DecodeInvertsEncode :
    (Instr.initS true fullOps).WellFormed ∧ (Instr.update (zeros 65535)).WellFormed ∧
      (Instr.initB true { fullOps with keyLen := 255, key := zeros 255, salt := zeros 255,
                                       pers := zeros 255 }).WellFormed := by
  refine ⟨by decide, ?_, by decide +kernel⟩
  simp [Instr.WellFormed, Instr.wellFormed]
theorem witness_EncodeInvertsDecode :
    decode [0x02, 0x00, 0x01, 0x00, 0x61, 0x04] = .command (.update [0x61]) [0x04] := by decide
theorem witness_HeaderMatchesTheOpcodeMap :
    (⟨0x01, 0x02, initPayload (plainOps 64)⟩ : Packet).payload.length ≤ 65535 ∧
    decodePacket ⟨0x01, 0x02, initPayload (plainOps 64)⟩ = .ok (.initB true (plainOps 64)) ∧
    headerWord ⟨0x02, 0x00, [0x61]⟩ &&& 0x0000FFFF#32 = 0x00000002#32 ∧
    headerWord ⟨0x03, 0x00, []⟩ &&& 0xFFFFFFFF#32 = 0x00000003#32 ∧
    headerWord ⟨0x04, 0x00, []⟩ &&& 0xFFFFFFFF#32 = 0x00000004#32 := by decide

/-- One packet for each row of 30_encoding.md R81, and one legal packet of each command at the edge of
the rows. -/
theorem witness_IllegalPacketsAreBadCommand :
    (∀ k ∈ ([⟨0x00, 0, []⟩, ⟨0x05, 0, []⟩, ⟨0xFF, 0xFF, [1, 2, 3]⟩,
        ⟨0x01, 0x04, initPayload (plainOps 64)⟩, ⟨0x01, 0, zeros 19⟩, ⟨0x01, 0, zeros 21⟩,
        ⟨0x01, 0x01, initPayload { plainOps 32 with nodeOffset := 0x1000000000000 }⟩,
        ⟨0x02, 0x80, []⟩, ⟨0x03, 0x01, []⟩, ⟨0x04, 0, [0]⟩] : List Packet),
      IllegalPacket k ∧ takePacket k.bytes = some (k, [])) ∧
    (∀ k ∈ ([⟨0x01, 0x03, zeros 20⟩, ⟨0x02, 0, []⟩, ⟨0x03, 0, []⟩, ⟨0x04, 0, []⟩,
        ⟨0x01, 0x00, initPayload { plainOps 64 with nodeOffset := 0x1000000000000 }⟩] : List Packet),
      ¬ IllegalPacket k ∧ takePacket k.bytes = some (k, [])) := by
  unfold IllegalPacket
  decide

theorem witness_StepRunsTheDecodedCommand :
    decode ([0x03, 0x00, 0x00, 0x00, 0x04] : List Byte) = .command .final [0x04] := by decide
theorem witness_IncompletePacketHoldsTheEngine :
    (State.reset.hostWrite [0x02, 0x00, 0x03]).cin.length < 4 ∧
    ∃ p, (State.reset.hostWrite [0x02, 0x00, 0x03, 0x00, 0x61, 0x62]).cin = 0x02 :: 0x00 :: 0x03 :: 0x00 :: p
      ∧ p.length < (0x03#8).toNat + 256 * (0x00#8).toNat :=
  ⟨by decide, [0x61, 0x62], rfl, by decide⟩

/-! ### States that meet the invariants, one in each phase and variant, with an empty and a full buffer -/

/-- A way into the invariants for a state in READY. -/
theorem inv_of_ready {s : State} (hp : s.phase = .ready) (h1 : s.fill.toNat ≤ s.variant.bb)
    (h2 : 1 ≤ s.diglen.toNat ∧ s.diglen.toNat ≤ s.variant.dmax)
    (h3 : counterOf s.variant s.t = 0) : s.Inv :=
  ⟨fun _ => h1, fun _ => h2, fun _ => by simp [h3], fun _ _ => h3, fun h => by simp [hp] at h⟩

theorem reset_inv : State.reset.Inv := by
  constructor <;> intro h <;> simp [State.reset] at h
theorem readyB_inv : readyB.Inv :=
  inv_of_ready (by decide +kernel) (by decide +kernel) (by decide +kernel) (by decide +kernel)
theorem readyS_inv : readyS.Inv :=
  inv_of_ready (by decide +kernel) (by decide +kernel) (by decide +kernel) (by decide +kernel)
theorem keyedB_inv : keyedB.Inv :=
  inv_of_ready (by decide +kernel) (by decide +kernel) (by decide +kernel) (by decide +kernel)
theorem keyedS_inv : keyedS.Inv :=
  inv_of_ready (by decide +kernel) (by decide +kernel) (by decide +kernel) (by decide +kernel)
theorem doneB_inv : doneB.Inv := by
  have hp : doneB.phase = .finalized := by decide +kernel
  have hv : doneB.variant = .b := by decide +kernel
  have hall : ∀ j : Fin 128, byteAt doneB.buf j.val = 0#8 := by decide +kernel
  exact ⟨fun _ => by decide +kernel, fun _ => by decide +kernel, fun h => by simp [hp] at h,
    fun h => by simp [hp] at h, fun _ i _ hi => hall ⟨i, by simpa [hv, Variant.bb] using hi⟩⟩

/-! ### Steps -/

/-- A held engine, and states that meet the invariants with a complete packet, legal and illegal. -/
theorem witness_OnlyAHeldEngineStandsStill :
    step State.reset = .next State.reset ∧
    ((State.reset.hostWrite [0x03, 0, 0, 0, 0x04]).Inv ∧
      takePacket (State.reset.hostWrite [0x03, 0, 0, 0, 0x04]).cin = some (⟨0x03, 0, []⟩, [0x04])) ∧
    ((keyedS.hostWrite [0x05, 0, 1, 0, 0xFF]).Inv ∧
      takePacket (keyedS.hostWrite [0x05, 0, 1, 0, 0xFF]).cin = some (⟨0x05, 0, [0xFF]⟩, [])) :=
  ⟨rfl, ⟨⟨reset_inv.1, reset_inv.2, reset_inv.3, reset_inv.4, reset_inv.5⟩, by decide +kernel⟩,
    ⟨⟨keyedS_inv.1, keyedS_inv.2, keyedS_inv.3, keyedS_inv.4, keyedS_inv.5⟩, by decide +kernel⟩⟩

/-- A packet of every kind, each completing a step from a state that meets the invariants. -/
theorem witness_EveryPacketGetsOneResponse :
    (State.reset.hostWrite (encode (.initB false (plainOps 64)))).Inv ∧
    step (State.reset.hostWrite (encode (.initB false (plainOps 64))))
      = .next (stepped (State.reset.hostWrite (encode (.initB false (plainOps 64))))) ∧
    step (readyB.hostWrite (encode (.update [0x61])))
      = .next (stepped (readyB.hostWrite (encode (.update [0x61])))) ∧
    step (readyB.hostWrite (encode .final)) = .next (stepped (readyB.hostWrite (encode .final))) ∧
    step (doneB.hostWrite (encode .dlen)) = .next (stepped (doneB.hostWrite (encode .dlen))) ∧
    step (readyB.hostWrite [0x05, 0, 0, 0]) = .next (stepped (readyB.hostWrite [0x05, 0, 0, 0])) ∧
    takePacket (readyB.hostWrite [0x05, 0, 0, 0]).cin = some (⟨0x05, 0, []⟩, []) :=
  ⟨⟨reset_inv.1, reset_inv.2, reset_inv.3, reset_inv.4, reset_inv.5⟩,
    step_eq_stepped (by decide +kernel), step_eq_stepped (by decide +kernel),
    step_eq_stepped (by decide +kernel), step_eq_stepped (by decide +kernel),
    step_eq_stepped (by decide +kernel), by decide +kernel⟩

/-- A STATE_ERROR, a CONFIG_ERROR and a BAD_COMMAND. -/
theorem witness_ErrorsChangeNoRegister :
    (∃ t, step (State.reset.hostWrite (encode .final)) = .next t ∧
      t.rout = State.reset.rout ++ 0x02#8 :: [0x03, 0x00, 0x00]) ∧
    (∃ t, step (readyB.hostWrite (encode (.initB false (plainOps 65)))) = .next t ∧
      t.rout = readyB.rout ++ 0x01#8 :: [0x01, 0x00, 0x00]) ∧
    (∃ t, step (readyB.hostWrite [0x02, 0x80, 0x00, 0x00]) = .next t ∧
      t.rout = readyB.rout ++ 0x03#8 :: [0x02, 0x00, 0x00]) :=
  ⟨⟨_, step_eq_stepped (by decide +kernel), by decide +kernel⟩,
    ⟨_, step_eq_stepped (by decide +kernel), by decide +kernel⟩,
    ⟨_, step_eq_stepped (by decide +kernel), by decide +kernel⟩⟩

theorem witness_ConfigurationIsImmutableBetweenInits :
    step (readyB.hostWrite (encode .dlen)) = .next (stepped (readyB.hostWrite (encode .dlen))) ∧
    (∀ ln op rest, decode (readyB.hostWrite (encode .dlen)).cin ≠ .command (.initB ln op) rest) ∧
    (∀ ln op rest, decode (readyB.hostWrite (encode .dlen)).cin ≠ .command (.initS ln op) rest) := by
  have hd : decode (readyB.hostWrite (encode .dlen)).cin = .command .dlen [] := by decide +kernel
  refine ⟨step_eq_stepped (by decide +kernel), ?_, ?_⟩ <;> intro ln op rest h <;> rw [hd] at h <;> cases h

theorem witness_PhaseTransitions :
    step (readyB.hostWrite (encode .final)) = .next (stepped (readyB.hostWrite (encode .final))) ∧
    decode (readyB.hostWrite (encode .final)).cin = .command .final [] ∧
    step (readyB.hostWrite [0x05, 0, 0, 0]) = .next (stepped (readyB.hostWrite [0x05, 0, 0, 0])) ∧
    decode (readyB.hostWrite [0x05, 0, 0, 0]).cin = .bad 0x05 .reservedOpcode [] :=
  ⟨step_eq_stepped (by decide +kernel), by decide +kernel, step_eq_stepped (by decide +kernel),
    by decide +kernel⟩

/-! ### Commands -/

/-- A legal configuration at its limits, and one just over each of them, in variant B. -/
theorem witness_InitBCreatesAHash :
    (Instr.initB true fullOps).WellFormed ∧ LegalConfig .b fullOps ∧
    LegalConfig .b ⟨64, 64, 0, 0, 0, 0, 0, 255, zeros 64, zeros 16, zeros 16⟩ ∧
    LegalConfig .b (plainOps 1) ∧ ¬ LegalConfig .b (plainOps 0) ∧ ¬ LegalConfig .b (plainOps 65) ∧
    ¬ LegalConfig .b { plainOps 64 with keyLen := 65, key := zeros 65 } ∧
    ¬ LegalConfig .b { plainOps 64 with salt := zeros 17 } ∧
    ¬ LegalConfig .b { plainOps 64 with pers := zeros 17 } := by
  unfold LegalConfig
  decide +kernel

/-- The same in variant S. -/
theorem witness_InitSCreatesAHash :
    (Instr.initS true fullOps).WellFormed ∧ LegalConfig .s fullOps ∧
    LegalConfig .s ⟨32, 32, 0, 0, 0, 0, 0, 255, zeros 32, zeros 8, zeros 8⟩ ∧
    LegalConfig .s (plainOps 1) ∧ ¬ LegalConfig .s (plainOps 0) ∧ ¬ LegalConfig .s (plainOps 33) ∧
    ¬ LegalConfig .s { plainOps 32 with keyLen := 33, key := zeros 33 } ∧
    ¬ LegalConfig .s { plainOps 32 with salt := zeros 9 } ∧
    ¬ LegalConfig .s { plainOps 32 with pers := zeros 9 } := by
  unfold LegalConfig
  decide +kernel

/-- Two states with the same streams and other registers, and a legal INIT that both take. -/
theorem witness_InitForgetsThePreviousHash :
    LegalConfig .s fullOps ∧
    ({ readyB with rout := [] } : State).cin = State.reset.cin ∧
    ({ readyB with rout := [] } : State).rout = State.reset.rout ∧
    exec (initCommand .s true fullOps) { readyB with rout := [] }
      = .next (after (initCommand .s true fullOps) { readyB with rout := [] }) ∧
    exec (initCommand .s true fullOps) State.reset
      = .next (after (initCommand .s true fullOps) State.reset) :=
  ⟨by unfold LegalConfig; decide +kernel, by decide +kernel, by decide +kernel,
    exec_eq_after (by decide +kernel), exec_eq_after (by decide +kernel)⟩

theorem witness_KeyBlockIsAFirstUpdate :
    (initCommand .b true fullOps).WellFormed ∧ LegalConfig .b fullOps ∧ fullOps.keyLen ≠ 0#8 ∧
    exec (initCommand .b true fullOps) State.reset
      = .next (after (initCommand .b true fullOps) State.reset) :=
  ⟨by decide, by unfold LegalConfig; decide +kernel, by decide, exec_eq_after (by decide +kernel)⟩

/-- Room for the whole block, for exactly none, and for a part. -/
theorem witness_UpdateWithinABlockOnlyStores :
    (readyB.phase = .ready ∧ readyB.fill.toNat + (zeros 128).length ≤ readyB.variant.bb) ∧
    (keyedS.phase = .ready ∧ keyedS.fill.toNat + ([] : List Byte).length ≤ keyedS.variant.bb) ∧
    (readyS.phase = .ready ∧ readyS.fill.toNat + (zeros 63).length ≤ readyS.variant.bb) := by
  decide +kernel

theorem witness_UpdateOnAFullBlockCompresses :
    (keyedB.phase = .ready ∧ keyedB.fill.toNat = keyedB.variant.bb ∧ keyedB.variant = .b) ∧
    (keyedS.phase = .ready ∧ keyedS.fill.toNat = keyedS.variant.bb ∧ keyedS.variant = .s) := by
  decide +kernel

theorem witness_EmptyUpdateChangesNoRegister : keyedB.phase = .ready := by decide +kernel

/-- No compression (empty buffer, exactly a block) and at least one (full buffer, one more byte). -/
theorem witness_UpdateCountsItsCompressions :
    (readyB.Inv ∧ readyB.phase = .ready ∧
      (readyB.fill.toNat + (zeros 128).length - 1) / readyB.variant.bb = 0) ∧
    (keyedS.Inv ∧ keyedS.phase = .ready ∧
      (keyedS.fill.toNat + (zeros 1).length - 1) / keyedS.variant.bb = 1) :=
  ⟨⟨readyB_inv, by decide +kernel, by decide +kernel⟩, ⟨keyedS_inv, by decide +kernel, by decide +kernel⟩⟩

theorem witness_UpdateMaySplitAnywhere :
    exec (.update (zeros 127)) readyB = .next (after (.update (zeros 127)) readyB) ∧
    exec (.update (zeros 1)) (after (.update (zeros 127)) readyB)
      = .next (after (.update (zeros 1)) (after (.update (zeros 127)) readyB)) :=
  ⟨exec_eq_after (by decide +kernel), exec_eq_after (by decide +kernel)⟩

theorem witness_FinalProducesTheDigest :
    (readyB.Inv ∧ readyB.phase = .ready ∧ readyB.variant = .b) ∧
    (keyedS.Inv ∧ keyedS.phase = .ready ∧ keyedS.variant = .s) ∧
    State.reset.phase ≠ .ready ∧ doneB.phase ≠ .ready :=
  ⟨⟨readyB_inv, by decide +kernel, by decide +kernel⟩,
    ⟨keyedS_inv, by decide +kernel, by decide +kernel⟩, by decide +kernel, by decide +kernel⟩

/-- A FINAL that completes, a state in FINALIZED, and commands of both kinds for the last clause. -/
theorem witness_FinalIsTerminal :
    (readyB.phase = .ready ∧ exec .final readyB = .next (after .final readyB)) ∧
    doneB.phase = .finalized ∧
    ∀ i ∈ ([.final, .update [], .update [0x61], .final] : List Instr),
      i = .final ∨ ∃ data, i = .update data :=
  ⟨⟨by decide +kernel, exec_eq_after (by decide +kernel)⟩, by decide +kernel, by simp⟩

theorem witness_DlenReportsTheDigestLength :
    readyS.phase ≠ .idle ∧ doneB.phase ≠ .idle ∧ State.reset.phase = .idle := by decide +kernel

/-- Every phase meets the premises. -/
theorem witness_StatusByCommandAndPhase :
    State.reset.Inv ∧ readyB.Inv ∧ doneB.Inv ∧ (Instr.initS true fullOps).WellFormed ∧
      (Instr.update [0x61]).WellFormed ∧ Instr.final.WellFormed ∧ Instr.dlen.WellFormed :=
  ⟨reset_inv, readyB_inv, doneB_inv, by decide, by decide, by decide, by decide⟩

theorem witness_CommandSequenceComputesBlake2 :
    ((initCommand .b false fullOps).WellFormed ∧ LegalConfig .b fullOps) ∧
    ((initCommand .s true (plainOps 32)).WellFormed ∧ LegalConfig .s (plainOps 32)) := by
  unfold LegalConfig
  decide +kernel

/-! ### Invariants, isolation, the host -/

theorem witness_StepKeepsTheInvariants :
    readyB.Inv ∧ step readyB = .next (stepped readyB) ∧
    (keyedS.hostWrite (encode (.update [0x61]))).Inv ∧
    step (keyedS.hostWrite (encode (.update [0x61])))
      = .next (stepped (keyedS.hostWrite (encode (.update [0x61])))) :=
  ⟨readyB_inv, step_eq_stepped (by decide +kernel),
    ⟨keyedS_inv.1, keyedS_inv.2, keyedS_inv.3, keyedS_inv.4, keyedS_inv.5⟩,
    step_eq_stepped (by decide +kernel)⟩

theorem witness_NoStepStops : readyS.Inv ∧ keyedB.Inv := ⟨readyS_inv, keyedB_inv⟩

theorem witness_RoutStaysWellFormed :
    RoutWellFormed State.reset.rout ∧
    step (State.reset.hostWrite (encode .dlen)) = .next (stepped (State.reset.hostWrite (encode .dlen))) :=
  ⟨⟨[], rfl, fun _ h => nomatch h⟩, step_eq_stepped (by decide +kernel)⟩

/-- Two different states that agree on the used part: in IDLE the registers differ, and in READY of
variant S the upper halves differ. -/
theorem witness_UnusedStateIsNeverRead :
    SameUsed State.reset { State.reset with diglen := 5, fill := 200, variant := .s } ∧
    SameUsed readyS { readyS with t := readyS.t + 0x10000000000000000#128 } :=
  ⟨⟨rfl, rfl, rfl, fun h => absurd rfl h, fun h => absurd rfl h, fun h => absurd rfl h,
      fun h => absurd rfl h, fun h => absurd rfl h, fun h => absurd rfl h, fun h => absurd rfl h⟩,
    ⟨rfl, rfl, rfl, fun _ => rfl, fun _ => rfl, fun _ => rfl, fun _ => rfl,
      fun _ => by decide +kernel, fun _ => rfl, fun _ => rfl⟩⟩

theorem witness_VariantSWritesOnlyItsParts :
    step (keyedS.hostWrite (encode .final)) = .next (stepped (keyedS.hostWrite (encode .final))) ∧
    (stepped (keyedS.hostWrite (encode .final))).variant = .s :=
  ⟨step_eq_stepped (by decide +kernel), by decide +kernel⟩

theorem witness_ResetHidesTheOldRegisters :
    (∃ t, core.run 1 (readyB.resetEvent.hostWrite (encode .dlen)) = .next t) ∧
    (∃ t, core.run 1 (State.reset.resetEvent.hostWrite (encode .dlen)) = .next t) :=
  ⟨⟨_, rfl⟩, ⟨_, rfl⟩⟩

theorem witness_HostTrafficDoesNotDisturbAStep :
    step (readyB.hostWrite (encode .dlen)) = .next (stepped (readyB.hostWrite (encode .dlen))) ∧
    decode (readyB.hostWrite (encode .dlen)).cin ≠ .held ∧
    4 ≤ (readyB.hostWrite (encode .dlen)).rout.length :=
  ⟨step_eq_stepped (by decide +kernel), by decide +kernel, by decide +kernel⟩

theorem witness_RunOfPacketsEndsCleanly :
    (∀ k ∈ ([⟨0x7F, 0, [0xDE, 0xAD]⟩, packetOf (.initB false (plainOps 64)), packetOf .final] : List Packet),
      k.payload.length ≤ 65535) ∧
    (State.reset.hostWrite ((([⟨0x7F, 0, [0xDE, 0xAD]⟩, packetOf (.initB false (plainOps 64)),
      packetOf .final] : List Packet).map Packet.bytes).flatten)).Inv ∧
    (State.reset.hostWrite ((([⟨0x7F, 0, [0xDE, 0xAD]⟩, packetOf (.initB false (plainOps 64)),
      packetOf .final] : List Packet).map Packet.bytes).flatten)).cin
      = (([⟨0x7F, 0, [0xDE, 0xAD]⟩, packetOf (.initB false (plainOps 64)),
          packetOf .final] : List Packet).map Packet.bytes).flatten :=
  ⟨by decide, ⟨reset_inv.1, reset_inv.2, reset_inv.3, reset_inv.4, reset_inv.5⟩, rfl⟩

end Sys2Proof.Tests
end

section
/-! PROOFS of the statements about the state (spec/10_state.md): what a step can do, the invariants,
what a step leaves unchanged, and what it never reads. -/
namespace Sys2Proof.Machine

/-! ### What a step can do -/

theorem step_of_held {s : State} (h : decode s.cin = .held) : step s = .next s := by
  simp [step, h]

theorem step_of_bad {s : State} {opc : Byte} {why : DecodeError} {rest : List Byte}
    (h : decode s.cin = .bad opc why rest) :
    step s = raiseError .badCommand opc (s.withCin rest) := by
  simp [step, h]

theorem step_of_command {s : State} {i : Instr} {rest : List Byte}
    (h : decode s.cin = .command i rest) : step s = exec i (s.withCin rest) := by
  simp [step, h]

theorem exec_initCommand (v : Variant) (ln : Bool) (op : InitOperands) (s : State) :
    exec (initCommand v ln op) s = doInit v ln op s := by
  cases v <;> rfl

theorem statusCell_initCommand (p q : Phase) (v : Variant) (ln : Bool) (op : InitOperands)
    (st : Status) :
    StatusCell p (initCommand v ln op) st q ↔
      (LegalConfig v op ∧ st = .ok ∧ q = .ready) ∨
      (¬ LegalConfig v op ∧ st = .configError ∧ q = p) := by
  cases v <;> rfl

/-- The checks of 42_parameter_block.md R154 are the causes of 60_exceptions.md R211. -/
theorem configOk_iff_legalConfig (v : Variant) (op : InitOperands) :
    configOk v op = true ↔ LegalConfig v op := by
  simp only [configOk, Bool.and_eq_true, decide_eq_true_eq, Nat.one_le_iff_ne_zero, and_assoc]
  cases v <;> rfl

/-- Everything a command that answers a next state can do to the registers, each with the response
it appends (43_sequencer_commands.md R170 to R178). -/
inductive Effect (s : State) : Instr → State → Prop
  /-- Every error, and DLEN: a response alone, in a cell of the table of R214 that keeps the phase. -/
  | respond (i : Instr) (st : Status) (opc : Byte) (payload : List Byte) :
      StatusCell s.phase i st s.phase → Effect s i (s.emit (response st opc payload))
  /-- A new hash (R173). -/
  | init (v : Variant) (ln : Bool) (op : InitOperands) (buf : Vector Byte 128) (opc : Byte)
      (payload : List Byte) :
      LegalConfig v op → memWrite v s.buf 0 (initialBlock v op) = some buf →
      Effect s (initCommand v ln op)
        (((((s.withConfig v op.digestLen ln).withChain (initialRegs v op s.h)
          (setCounter v 0 s.t)).withBlock buf (initialFill v op)).withPhase .ready).emit
            (response .ok opc payload))
  /-- A payload absorbed (R174). -/
  | update (data : List Byte) (s1 : State) (opc : Byte) (payload : List Byte) :
      s.phase = .ready → absorb data s = some s1 →
      Effect s (.update data) (s1.emit (response .ok opc payload))
  /-- The last block compressed (R176). -/
  | final (buf : Vector Byte 128) (h : Vector (BitVec 64) 8) (opc : Byte) (payload : List Byte) :
      s.phase = .ready →
      memWrite s.variant s.buf s.fill.toNat (zeros (s.variant.bb - s.fill.toNat)) = some buf →
      h = compressRegs s.variant s.h buf (advanceCounter s.variant s.fill.toNat s.t) true
        s.lastnode →
      Effect s .final
        ((((s.withChain h (advanceCounter s.variant s.fill.toNat s.t)).withBlock buf
          s.fill).withPhase .finalized).emit (response .ok opc payload))

theorem effect_of_doInit {v : Variant} {ln : Bool} {op : InitOperands} {s s' : State}
    (h : doInit v ln op s = .next s') : Effect s (initCommand v ln op) s' := by
  obtain ⟨hc, he⟩ | ⟨hc, buf, hm, he⟩ | ⟨-, -, he⟩ := doInit_cases v ln op s <;>
    cases he.symm.trans h
  · have hill : ¬ LegalConfig v op := by simp [← configOk_iff_legalConfig, hc]
    exact .respond _ .configError opcInit []
      ((statusCell_initCommand ..).mpr (.inr ⟨hill, rfl, rfl⟩))
  · exact .init v ln op buf opcInit [] ((configOk_iff_legalConfig v op).mp hc) hm

theorem effect_of_execUpdate {data : List Byte} {s s' : State}
    (h : execUpdate data s = .next s') : Effect s (.update data) s' := by
  obtain ⟨hp, he⟩ | ⟨hp, s1, ha, he⟩ | ⟨-, -, he⟩ := execUpdate_cases data s <;>
    cases he.symm.trans h
  · exact .respond _ .stateError opcUpdate [] (.inr ⟨hp, rfl, rfl⟩)
  · exact .update data s1 opcUpdate [] hp ha

theorem effect_of_execFinal {s s' : State} (h : execFinal s = .next s') : Effect s .final s' := by
  obtain ⟨hp, he⟩ | ⟨hp, buf, t, h', hm, rfl, hh, he⟩ | ⟨-, -, he⟩ := execFinal_cases s <;>
    cases he.symm.trans h
  · exact .respond _ .stateError opcFinal [] (.inr ⟨hp, rfl, rfl⟩)
  · exact .final buf h' opcFinal _ hp hm hh

theorem effect_of_execDlen {s s' : State} (h : execDlen s = .next s') : Effect s .dlen s' := by
  obtain ⟨hp, he⟩ | ⟨hp, he⟩ := execDlen_cases s <;> cases he.symm.trans h
  · exact .respond _ .stateError opcDlen [] (.inr ⟨hp, rfl, rfl⟩)
  · exact .respond _ .ok opcDlen [s.diglen] (.inl ⟨hp, rfl, rfl⟩)

theorem effect_of_exec {i : Instr} {s s' : State} (h : exec i s = .next s') : Effect s i s' := by
  cases i with
  | initB ln op => exact effect_of_doInit (v := .b) h
  | initS ln op => exact effect_of_doInit (v := .s) h
  | update data => exact effect_of_execUpdate h
  | final => exact effect_of_execFinal h
  | dlen => exact effect_of_execDlen h

theorem absorbByte_phase {b : Byte} {s s' : State} (h : absorbByte b s = some s') :
    s'.phase = s.phase := (absorbByte_frame h).left

theorem absorbByte_variant {b : Byte} {s s' : State} (h : absorbByte b s = some s') :
    s'.variant = s.variant := (absorbByte_frame h).right.left

/-- What every pass of the loop of UPDATE keeps, the loop keeps. -/
theorem absorb_induction {P : State → Prop}
    (hstep : ∀ b s s', P s → absorbByte b s = some s' → P s') {data : List Byte} {s s' : State}
    (hs : P s) (h : absorb data s = some s') : P s' := by
  induction data generalizing s with
  | nil => cases h; exact hs
  | cons b bs ih =>
    simp only [absorb] at h
    split at h
    · next s1 h1 => exact ih (hstep b s s1 hs h1) h
    · cases h

/-- Everything a step that answers a next state can do: without a command only the streams move. -/
theorem step_next_cases {s s' : State} (h : step s = .next s') :
    ((∀ i rest, decode s.cin ≠ .command i rest) ∧ ∃ cin out, s' = (s.withCin cin).emit out) ∨
    ∃ i rest, decode s.cin = .command i rest ∧ Effect (s.withCin rest) i s' := by
  cases hd : decode s.cin with
  | held =>
    cases (step_of_held hd).symm.trans h
    exact .inl ⟨nofun, s.cin, [], by simp [State.emit, State.withCin]⟩
  | bad opc why rest =>
    cases (step_of_bad hd).symm.trans h
    exact .inl ⟨nofun, rest, _, rfl⟩
  | command i rest =>
    exact .inr ⟨i, rest, rfl, effect_of_exec ((step_of_command hd).symm.trans h)⟩

/-! ### The invariants (spec/10_state.md R39) -/

theorem inv_of_idle {s : State} (h : s.phase = .idle) : s.Inv := by
  constructor <;> intro hp <;> simp [h] at hp

/-- Settles O47: the invariants claim nothing in IDLE, where both states are. -/
theorem resetMeetsTheInvariants : Obligations.ResetMeetsTheInvariants :=
  ⟨inv_of_idle rfl, fun _ => inv_of_idle rfl⟩

theorem State.Inv.withCin {s : State} (hi : s.Inv) (cin : List Byte) : (s.withCin cin).Inv :=
  ⟨hi.fillRange, hi.diglenRange, hi.counterAligned, hi.counterFresh, hi.padded⟩

theorem State.Inv.emit {s : State} (hi : s.Inv) (out : List Byte) : (s.emit out).Inv :=
  ⟨hi.fillRange, hi.diglenRange, hi.counterAligned, hi.counterFresh, hi.padded⟩

theorem bb_le (v : Variant) : v.bb ≤ 128 := by cases v <;> decide

/-- The counter wraps at a multiple of the block length (10_state.md R26). -/
theorem bb_dvd_two_pow_cw (v : Variant) : v.bb ∣ 2 ^ v.cw := by cases v <;> decide

theorem initialFill_le (v : Variant) (op : InitOperands) : (initialFill v op).toNat ≤ v.bb := by
  unfold initialFill
  split
  · simp
  · exact Nat.mod_le _ _

theorem LegalConfig.digestLen_range {v : Variant} {op : InitOperands} (h : LegalConfig v op) :
    1 ≤ op.digestLen.toNat ∧ op.digestLen.toNat ≤ v.dmax := by
  cases v <;> obtain ⟨h0, hmax, -⟩ := h <;> exact ⟨Nat.pos_of_ne_zero h0, hmax⟩

@[simp] theorem startBlock_phase (s : State) : s.startBlock.phase = s.phase := rfl
@[simp] theorem startBlock_variant (s : State) : s.startBlock.variant = s.variant := rfl
@[simp] theorem startBlock_diglen (s : State) : s.startBlock.diglen = s.diglen := rfl
@[simp] theorem startBlock_lastnode (s : State) : s.startBlock.lastnode = s.lastnode := rfl
@[simp] theorem startBlock_cin (s : State) : s.startBlock.cin = s.cin := rfl
@[simp] theorem startBlock_rout (s : State) : s.startBlock.rout = s.rout := rfl
@[simp] theorem startBlock_t (s : State) :
    s.startBlock.t = advanceCounter s.variant s.variant.bb s.t := rfl
@[simp] theorem startBlock_h (s : State) :
    s.startBlock.h = compressRegs s.variant s.h s.buf s.startBlock.t false false := rfl
@[simp] theorem startBlock_buf (s : State) : s.startBlock.buf = s.buf := rfl
@[simp] theorem startBlock_fill (s : State) : s.startBlock.fill = 0#8 := rfl

/-- A new block keeps the counter a multiple of the block length: 10_state.md R39 item 2. -/
theorem startBlock_counter_aligned {s : State}
    (h : counterOf s.variant s.t % s.variant.bb = 0) :
    counterOf s.startBlock.variant s.startBlock.t % s.startBlock.variant.bb = 0 := by
  simp only [startBlock_variant, startBlock_t, counterOf_advanceCounter,
    Nat.mod_mod_of_dvd _ (bb_dvd_two_pow_cw s.variant), Nat.add_mod_right, h]

/-- A stored byte makes `fill` positive, so nothing is claimed of the counter but its alignment. -/
theorem inv_of_stored {s : State} {b : Byte} {buf : Vector Byte 128} (hp : s.phase = .ready)
    (hd : 1 ≤ s.diglen.toNat ∧ s.diglen.toNat ≤ s.variant.dmax)
    (ha : counterOf s.variant s.t % s.variant.bb = 0)
    (hm : memWrite s.variant s.buf s.fill.toNat [b] = some buf) :
    (s.withBlock buf (s.fill + 1#8)).Inv := by
  obtain ⟨hle, -⟩ := memWrite_eq_some _ _ _ _ _ hm
  have hbb := bb_le s.variant
  have hfill : (s.fill + 1#8).toNat = s.fill.toNat + 1 := by
    simp at hle ⊢; omega
  refine ⟨fun _ => hfill.trans_le hle, fun _ => hd, fun _ => ha, fun _ h0 => ?_, fun h => ?_⟩
  · have : (s.fill + 1#8).toNat = 0 := congrArg BitVec.toNat h0
    omega
  · simp [hp] at h

theorem absorbByte_inv {b : Byte} {s s' : State} (hp : s.phase = .ready) (hi : s.Inv)
    (h : absorbByte b s = some s') : s'.Inv := by
  have hd := hi.diglenRange (by simp [hp])
  have ha := hi.counterAligned hp
  obtain ⟨s1, buf, ⟨-, rfl⟩ | ⟨-, rfl⟩, hm, rfl⟩ := absorbByte_cases h
  · exact inv_of_stored (s := s.startBlock) hp (by simpa using hd)
      (startBlock_counter_aligned ha) hm
  · exact inv_of_stored hp hd ha hm

theorem absorb_inv {data : List Byte} {s s' : State} (hp : s.phase = .ready) (hi : s.Inv)
    (h : absorb data s = some s') : s'.Inv :=
  (absorb_induction (P := fun x => x.phase = .ready ∧ x.Inv)
    (fun _ _ _ ⟨hp, hi⟩ h => ⟨(absorbByte_phase h).trans hp, absorbByte_inv hp hi h⟩)
    ⟨hp, hi⟩ h).2

theorem effect_inv {i : Instr} {s s' : State} (hi : s.Inv) (h : Effect s i s') : s'.Inv := by
  cases h with
  | respond => exact hi.emit _
  | init v ln op buf opc payload hl hm =>
    have ht : counterOf v (setCounter v 0 s.t) = 0 := by simp [counterOf_setCounter]
    exact ⟨fun _ => initialFill_le v op, fun _ => hl.digestLen_range,
      fun _ => (congrArg (· % v.bb) ht).trans (Nat.zero_mod _), fun _ _ => ht, nofun⟩
  | update data s1 opc payload hp ha => exact (absorb_inv hp hi ha).emit _
  | final buf h opc payload hp hm hh =>
    have hne : s.phase ≠ .idle := by simp [hp]
    obtain ⟨-, hbuf⟩ := memWrite_eq_some _ _ _ _ _ hm
    refine ⟨fun _ => hi.fillRange hne, fun _ => hi.diglenRange hne, nofun, nofun,
      fun _ i hfill hbb => ?_⟩
    have hin : s.fill.toNat ≤ i ∧ i < s.fill.toNat + (s.variant.bb - s.fill.toNat) := by
      simp at hfill hbb; omega
    simp [hbuf, hin, zeros]

/-- Settles O46, by the cases of what a step can do. -/
theorem stepKeepsTheInvariants : Obligations.StepKeepsTheInvariants := by
  intro s s' hi h
  obtain ⟨-, cin, out, rfl⟩ | ⟨i, rest, -, he⟩ := step_next_cases h
  · exact (hi.withCin cin).emit out
  · exact effect_inv (hi.withCin rest) he

/-! ### What only INIT writes, and the phases (spec/10_state.md R24, R25, R29, R30) -/

theorem effect_config {i : Instr} {s s' : State} (h : Effect s i s') :
    (∃ v ln op, i = initCommand v ln op) ∨
      (s'.variant = s.variant ∧ s'.diglen = s.diglen ∧ s'.lastnode = s.lastnode) := by
  cases h with
  | respond => exact .inr ⟨rfl, rfl, rfl⟩
  | init v ln op => exact .inl ⟨v, ln, op, rfl⟩
  | update data s1 opc payload hp ha =>
    obtain ⟨-, hv, hd, hl, -⟩ := absorb_frame ha
    exact .inr ⟨hv, hd, hl⟩
  | final => exact .inr ⟨rfl, rfl, rfl⟩

/-- Settles O30: the one effect that writes these registers is that of an INIT. -/
theorem configurationIsImmutableBetweenInits :
    Obligations.ConfigurationIsImmutableBetweenInits := by
  intro s s' h hb hs
  obtain ⟨-, cin, out, rfl⟩ | ⟨i, rest, hd, he⟩ := step_next_cases h
  · exact ⟨rfl, rfl, rfl⟩
  obtain ⟨v, ln, op, rfl⟩ | hsame := effect_config he
  · cases v with
    | b => exact absurd hd (hb ln op rest)
    | s => exact absurd hd (hs ln op rest)
  · exact hsame

/-- The status answered and the phase left are together a cell of the table of 60_exceptions.md
R214. -/
theorem effect_statusCell {i : Instr} {s s' : State} (h : Effect s i s') :
    ∃ st tail, s'.rout = s.rout ++ statusCode st :: tail ∧ StatusCell s.phase i st s'.phase := by
  cases h with
  | respond _ st opc payload hcell => exact ⟨st, _, rfl, hcell⟩
  | init v ln op buf opc payload hl hm =>
    exact ⟨.ok, _, rfl, (statusCell_initCommand ..).mpr (.inl ⟨hl, rfl, rfl⟩)⟩
  | update data s1 opc payload hp ha =>
    obtain ⟨hp1, -, -, -, -, hrout⟩ := absorb_frame ha
    exact ⟨.ok, _, congrArg (· ++ _) hrout, .inl ⟨hp, rfl, hp1.trans hp⟩⟩
  | final buf h opc payload hp hm hh => exact ⟨.ok, _, rfl, .inl ⟨hp, rfl, rfl⟩⟩

/-- Settles O31, by the response and the phase of each effect. -/
theorem phaseTransitions : Obligations.PhaseTransitions := by
  refine ⟨fun _ => rfl, fun s s' h => ⟨fun i rest hd => ?_, fun opc why rest hd => ?_⟩⟩
  · exact effect_statusCell (s := s.withCin rest)
      (effect_of_exec ((step_of_command hd).symm.trans h))
  · cases (step_of_bad hd).symm.trans h
    rfl

end Sys2Proof.Machine
end

section
/-! PROOFS of the statements about the parts of the registers the engine does not use (spec/10_state.md
R20, R26, R27, R38): variant S does not write them, and no step reads them. -/
namespace Sys2Proof.Machine

/-! ### Variant S writes only its parts (log entry 2) -/

/-- Two states with the same values in the parts of the registers that variant S does not use. -/
structure SameUnused (s s' : State) : Prop where
  words : ∀ i : Fin 8, s'.h[i] >>> 32 = s.h[i] >>> 32
  counter : s'.t >>> 64 = s.t >>> 64
  bytes : ∀ i, 64 ≤ i → byteAt s'.buf i = byteAt s.buf i

theorem SameUnused.refl (s : State) : SameUnused s s := ⟨fun _ => rfl, rfl, fun _ _ => rfl⟩

theorem SameUnused.trans {s1 s2 s3 : State} (h : SameUnused s1 s2) (h' : SameUnused s2 s3) :
    SameUnused s1 s3 :=
  ⟨fun i => (h'.words i).trans (h.words i), h'.counter.trans h.counter,
    fun i hi => (h'.bytes i hi).trans (h.bytes i hi)⟩

theorem setLowWord_ushiftRight {w : Nat} (x : BitVec w) (old : BitVec 64) :
    setLowWord x old >>> w = old >>> w := by
  ext i hi
  simpa [setLowWord] using BitVec.lt_of_getLsbD

theorem setLowWords_ushiftRight {w : Nat} (x : Vector (BitVec w) 8) (old : Vector (BitVec 64) 8)
    (i : Fin 8) : (setLowWords x old)[i] >>> w = old[i] >>> w := by
  fin_cases i <;> exact setLowWord_ushiftRight _ _

theorem setCounter_ushiftRight (v : Variant) (x : Nat) (old : BitVec 128) :
    setCounter v x old >>> v.cw = old >>> v.cw := by
  ext i hi
  simpa [setCounter, BitVec.getLsbD_ofNat, Nat.testBit_mod_two_pow] using BitVec.lt_of_getLsbD

theorem byteAt_memWrite_of_bb_le {v : Variant} {buf buf' : Vector Byte 128} {a : Nat}
    {bytes : List Byte} (h : memWrite v buf a bytes = some buf') {i : Nat} (hi : v.bb ≤ i) :
    byteAt buf' i = byteAt buf i := by
  obtain ⟨hle, hbuf⟩ := memWrite_eq_some _ _ _ _ _ h
  rw [hbuf, if_neg (by omega)]

/-- F and an advance of the counter in variant S. -/
theorem withChain_sameUnused {s : State} (hv : s.variant = .s) (buf : Vector Byte 128)
    (t : BitVec 128) (last ln : Bool) (n : Nat) :
    SameUnused s (s.withChain (compressRegs s.variant s.h buf t last ln)
      (advanceCounter s.variant n s.t)) := by
  rw [hv]
  exact ⟨fun i => setLowWords_ushiftRight _ s.h i, setCounter_ushiftRight .s _ s.t,
    fun _ _ => rfl⟩

theorem withBlock_sameUnused {s : State} (hv : s.variant = .s) {buf : Vector Byte 128} {a : Nat}
    {bytes : List Byte} (hm : memWrite s.variant s.buf a bytes = some buf) (fill : Byte) :
    SameUnused s (s.withBlock buf fill) := by
  rw [hv] at hm
  exact ⟨fun _ => rfl, rfl, fun _ hi => byteAt_memWrite_of_bb_le hm hi⟩

theorem startBlock_sameUnused {s : State} (hv : s.variant = .s) : SameUnused s s.startBlock := by
  obtain ⟨hh, ht, hb⟩ := withChain_sameUnused hv s.buf s.startBlock.t false false s.variant.bb
  exact ⟨hh, ht, hb⟩

theorem absorbByte_sameUnused {b : Byte} {s s' : State} (hv : s.variant = .s)
    (h : absorbByte b s = some s') : SameUnused s s' := by
  obtain ⟨s1, buf, ⟨-, rfl⟩ | ⟨-, rfl⟩, hm, rfl⟩ := absorbByte_cases h
  · exact (startBlock_sameUnused hv).trans (withBlock_sameUnused (s := s.startBlock) hv hm _)
  · exact withBlock_sameUnused hv hm _

theorem absorb_sameUnused {data : List Byte} {s s' : State} (hv : s.variant = .s)
    (h : absorb data s = some s') : SameUnused s s' :=
  (absorb_induction (P := fun x => x.variant = .s ∧ SameUnused s x)
    (fun _ _ _ ⟨hv, hu⟩ h =>
      ⟨(absorbByte_variant h).trans hv, hu.trans (absorbByte_sameUnused hv h)⟩)
    ⟨hv, .refl s⟩ h).2

theorem effect_sameUnused {i : Instr} {s s' : State} (h : Effect s i s') (hv : s'.variant = .s) :
    SameUnused s s' := by
  cases h with
  | respond => exact ⟨fun _ => rfl, rfl, fun _ _ => rfl⟩
  | init v ln op buf opc payload hl hm =>
    obtain rfl : v = .s := hv
    exact ⟨fun i => setLowWords_ushiftRight _ s.h i, setCounter_ushiftRight .s 0 s.t,
      fun i hi => byteAt_memWrite_of_bb_le hm hi⟩
  | update data s1 opc payload hp ha =>
    obtain ⟨-, hv1, -⟩ := absorb_frame ha
    obtain ⟨hh, ht, hb⟩ := absorb_sameUnused (hv1.symm.trans hv) ha
    exact ⟨hh, ht, hb⟩
  | final buf h opc payload hp hm hh =>
    replace hv : s.variant = .s := hv
    obtain ⟨hw, ht, -⟩ := withChain_sameUnused hv buf _ true s.lastnode s.fill.toNat
    obtain ⟨-, -, hb⟩ := withBlock_sameUnused hv hm s.fill
    exact ⟨hh ▸ hw, ht, hb⟩

/-- Settles O51, by the cases of what a step can do. -/
theorem variantSWritesOnlyItsParts : Obligations.VariantSWritesOnlyItsParts := by
  intro s s' h hv
  obtain ⟨-, cin, out, rfl⟩ | ⟨i, rest, -, he⟩ := step_next_cases h
  · exact ⟨fun _ => rfl, rfl, fun _ _ => rfl⟩
  · obtain ⟨hh, ht, hb⟩ := effect_sameUnused he hv
    exact ⟨hh, ht, hb⟩

/-! ### The views of the registers that F reads -/

theorem usedWords_eq_map_lowWords (v : Variant) (h : Vector (BitVec 64) 8) :
    usedWords v h = (lowWords v.w h).toList.map BitVec.toNat := by
  have hlist : h.toList = [h[0], h[1], h[2], h[3], h[4], h[5], h[6], h[7]] := by
    apply List.ext_getElem <;> simp
    intro i hi
    interval_cases i <;> rfl
  simp [usedWords, lowWords, hlist]

theorem usedWords_eq_iff {v : Variant} {h1 h2 : Vector (BitVec 64) 8} :
    usedWords v h1 = usedWords v h2 ↔ lowWords v.w h1 = lowWords v.w h2 := by
  have hinj : Function.Injective (BitVec.toNat (w := v.w)) := fun _ _ => BitVec.eq_of_toNat_eq
  rw [usedWords_eq_map_lowWords, usedWords_eq_map_lowWords, (List.map_injective_iff.mpr hinj).eq_iff,
    Vector.toList_inj]

theorem byteAt_eq_blockOf_getD {v : Variant} {i : Nat} (hi : i < v.bb) (buf : Vector Byte 128) :
    byteAt buf i = (blockOf v buf).getD i 0#8 := by
  simp [byteAt, blockOf, memRead, slice, List.getD_eq_getElem?_getD, hi]

theorem blockOf_length (v : Variant) (buf : Vector Byte 128) : (blockOf v buf).length = v.bb := by
  simp [blockOf, memRead, bb_le]

theorem blockOf_eq_iff {v : Variant} {b1 b2 : Vector Byte 128} :
    blockOf v b1 = blockOf v b2 ↔ ∀ i < v.bb, byteAt b1 i = byteAt b2 i := by
  constructor
  · intro h i hi
    rw [byteAt_eq_blockOf_getD hi, byteAt_eq_blockOf_getD hi, h]
  · intro h
    refine List.ext_getElem (by simp [blockOf_length]) fun i h1 h2 => ?_
    have hi : i < v.bb := blockOf_length v b1 ▸ h1
    simpa [byteAt_eq_blockOf_getD hi, List.getD_eq_getElem, h1, h2] using h i hi

/-- Whether a write of the buffer happens depends on its place alone, and it leaves the same block
whenever the bytes it does not write are the same. -/
theorem memWrite_rel {v : Variant} {b1 b2 : Vector Byte 128} {a : Nat} {bytes : List Byte}
    (h : ∀ i < v.bb, ¬ (a ≤ i ∧ i < a + bytes.length) → byteAt b1 i = byteAt b2 i) :
    Option.Rel (fun c1 c2 => blockOf v c1 = blockOf v c2)
      (memWrite v b1 a bytes) (memWrite v b2 a bytes) := by
  have hbb := bb_le v
  by_cases hle : a + bytes.length ≤ v.bb
  · rw [memWrite_of_le _ _ _ _ hle, memWrite_of_le _ _ _ _ hle]
    refine .some (blockOf_eq_iff.mpr fun i hi => ?_)
    rw [byteAt_putBytes, byteAt_putBytes]
    split
    · rfl
    · exact h i hi (by omega)
  · rw [memWrite_eq_none _ _ _ _ (by omega), memWrite_eq_none _ _ _ _ (by omega)]
    exact .none

theorem memWrite_rel_of_blockOf_eq {v : Variant} {b1 b2 : Vector Byte 128}
    (h : blockOf v b1 = blockOf v b2) (a : Nat) (bytes : List Byte) :
    Option.Rel (fun c1 c2 => blockOf v c1 = blockOf v c2)
      (memWrite v b1 a bytes) (memWrite v b2 a bytes) :=
  memWrite_rel fun i hi _ => blockOf_eq_iff.mp h i hi

/-- F on the registers reads and leaves only their used parts (41_compression.md R128). -/
theorem usedWords_compressRegs_congr {v : Variant} {h1 h2 : Vector (BitVec 64) 8}
    {b1 b2 : Vector Byte 128} {t1 t2 : BitVec 128} (hh : usedWords v h1 = usedWords v h2)
    (hb : blockOf v b1 = blockOf v b2) (ht : counterOf v t1 = counterOf v t2) (last ln : Bool) :
    usedWords v (compressRegs v h1 b1 t1 last ln) = usedWords v (compressRegs v h2 b2 t2 last ln) := by
  rw [usedWords_eq_iff] at hh ⊢
  cases v <;>
    simp only [Variant.w] at hh ⊢ <;>
    simp [compressRegs, lowWords_setLowWords, hh, hb, ht]

theorem usedWords_initialRegs (v : Variant) (op : InitOperands) (h1 h2 : Vector (BitVec 64) 8) :
    usedWords v (initialRegs v op h1) = usedWords v (initialRegs v op h2) := by
  rw [usedWords_eq_iff]
  cases v <;> simp [Variant.w, initialRegs, lowWords_setLowWords]

theorem digestOf_congr {v : Variant} {h1 h2 : Vector (BitVec 64) 8}
    (h : usedWords v h1 = usedWords v h2) (n : Nat) : digestOf v h1 n = digestOf v h2 n := by
  rw [usedWords_eq_iff] at h
  cases v <;> exact congrArg (serialize · n) h

theorem counterOf_advanceCounter_congr {v : Variant} {t1 t2 : BitVec 128}
    (h : counterOf v t1 = counterOf v t2) (n : Nat) :
    counterOf v (advanceCounter v n t1) = counterOf v (advanceCounter v n t2) := by
  rw [counterOf_advanceCounter, counterOf_advanceCounter, h]

/-! ### No step reads the rest (log entries 1 and 2) -/

theorem SameUsed.emit {s t : State} (h : SameUsed s t) (out : List Byte) :
    SameUsed (s.emit out) (t.emit out) :=
  ⟨h.phase, h.cin, congrArg (· ++ out) h.rout, h.variant, h.diglen, h.lastnode, h.words, h.counter,
    h.block, h.fill⟩

theorem SameUsed.withCin {s t : State} (h : SameUsed s t) (cin : List Byte) :
    SameUsed (s.withCin cin) (t.withCin cin) :=
  ⟨h.phase, rfl, h.rout, h.variant, h.diglen, h.lastnode, h.words, h.counter, h.block, h.fill⟩

theorem raiseError_sameOutcome {s t : State} (h : SameUsed s t) (st : Status) (opc : Byte) :
    SameOutcome (raiseError st opc s) (raiseError st opc t) := h.emit _

theorem respondOk_sameOutcome {s t : State} (h : SameUsed s t) (opc : Byte) (payload : List Byte) :
    SameOutcome (respondOk opc payload s) (respondOk opc payload t) := h.emit _

theorem bb_le_initialBlock_length (v : Variant) (op : InitOperands) :
    v.bb ≤ (initialBlock v op).length := by
  unfold initialBlock
  split <;> simp
  omega

/-- A successful INIT writes every used part, so it agrees from any two states with the same streams
(43_sequencer_commands.md R173 item 5). -/
theorem doInit_sameOutcome_of_configOk {v : Variant} {op : InitOperands} {s t : State}
    (hc : configOk v op = true) (hcin : s.cin = t.cin) (hrout : s.rout = t.rout) (ln : Bool) :
    SameOutcome (doInit v ln op s) (doInit v ln op t) := by
  have hm : Option.Rel (fun c1 c2 => blockOf v c1 = blockOf v c2)
      (memWrite v s.buf 0 (initialBlock v op)) (memWrite v t.buf 0 (initialBlock v op)) :=
    memWrite_rel fun i hi hout => absurd hi (by have := bb_le_initialBlock_length v op; omega)
  simp only [doInit, if_pos hc]
  generalize memWrite v s.buf 0 (initialBlock v op) = o1,
    memWrite v t.buf 0 (initialBlock v op) = o2 at hm ⊢
  cases hm with
  | none => rfl
  | some hb =>
    refine respondOk_sameOutcome ?_ _ _
    exact ⟨rfl, hcin, hrout, fun _ => rfl, fun _ => rfl, fun _ => rfl,
      fun _ => usedWords_initialRegs v op s.h t.h,
      fun _ => (counterOf_setCounter v 0 s.t).trans (counterOf_setCounter v 0 t.t).symm,
      fun _ => hb, fun _ => rfl⟩

theorem doInit_sameOutcome {s t : State} (h : SameUsed s t) (v : Variant) (ln : Bool)
    (op : InitOperands) : SameOutcome (doInit v ln op s) (doInit v ln op t) := by
  by_cases hc : configOk v op = true
  · exact doInit_sameOutcome_of_configOk hc h.cin h.rout ln
  · simp only [doInit, if_neg hc]
    exact raiseError_sameOutcome h _ _

theorem SameUsed.startBlock {s t : State} (h : SameUsed s t) (hp : s.phase ≠ .idle) :
    SameUsed s.startBlock t.startBlock := by
  have hv := h.variant hp
  have ht := counterOf_advanceCounter_congr (h.counter hp) s.variant.bb
  have hw := usedWords_compressRegs_congr (h.words hp) (h.block hp) ht false false
  constructor <;>
    simp only [startBlock_phase, startBlock_cin, startBlock_rout, startBlock_variant,
      startBlock_diglen, startBlock_lastnode, startBlock_h, startBlock_t, startBlock_buf,
      startBlock_fill, ← hv, implies_true]
  exacts [h.phase, h.cin, h.rout, h.diglen, h.lastnode, fun _ => hw, fun _ => ht, h.block]

/-- The state whose buffer takes the next byte of UPDATE: a full block is compressed first
(43_sequencer_commands.md R174). -/
def State.makeRoom (s : State) : State :=
  if s.fill.toNat = s.variant.bb then s.startBlock else s

theorem absorbByte_eq_map (b : Byte) (s : State) :
    absorbByte b s = (memWrite s.makeRoom.variant s.makeRoom.buf s.makeRoom.fill.toNat [b]).map
      (s.makeRoom.withBlock · (s.makeRoom.fill + 1#8)) := by
  simp only [absorbByte, State.makeRoom]
  generalize (if s.fill.toNat = s.variant.bb then s.startBlock else s) = s1
  cases memWrite s1.variant s1.buf s1.fill.toNat [b] <;> rfl

theorem SameUsed.makeRoom {s t : State} (h : SameUsed s t) (hp : s.phase ≠ .idle) :
    SameUsed s.makeRoom t.makeRoom ∧ s.makeRoom.phase = s.phase := by
  simp only [State.makeRoom, ← h.fill hp, ← h.variant hp]
  split
  · exact ⟨h.startBlock hp, rfl⟩
  · exact ⟨h, rfl⟩

theorem absorbByte_rel {s t : State} (h : SameUsed s t) (hp : s.phase ≠ .idle) (b : Byte) :
    Option.Rel SameUsed (absorbByte b s) (absorbByte b t) := by
  obtain ⟨h1, hp1⟩ := h.makeRoom hp
  rw [← hp1] at hp
  have hm := memWrite_rel_of_blockOf_eq (h1.block hp) s.makeRoom.fill.toNat [b]
  rw [absorbByte_eq_map, absorbByte_eq_map, ← h1.variant hp, ← h1.fill hp]
  generalize memWrite s.makeRoom.variant s.makeRoom.buf s.makeRoom.fill.toNat [b] = o1,
    memWrite s.makeRoom.variant t.makeRoom.buf s.makeRoom.fill.toNat [b] = o2 at hm ⊢
  cases hm with
  | none => exact .none
  | some hb =>
    exact .some ⟨h1.phase, h1.cin, h1.rout, h1.variant, h1.diglen, h1.lastnode, h1.words,
      h1.counter, fun _ => hb, fun _ => rfl⟩

theorem absorb_rel {s t : State} (h : SameUsed s t) (hp : s.phase ≠ .idle) (data : List Byte) :
    Option.Rel SameUsed (absorb data s) (absorb data t) := by
  induction data generalizing s t with
  | nil => exact .some h
  | cons b bs ih =>
    have hb := absorbByte_rel h hp b
    simp only [absorb]
    generalize hs : absorbByte b s = o1, absorbByte b t = o2 at hb ⊢
    cases hb with
    | none => exact .none
    | some h1 =>
      exact ih h1 (absorbByte_phase hs ▸ hp)

theorem execUpdate_sameOutcome {s t : State} (h : SameUsed s t) (data : List Byte) :
    SameOutcome (execUpdate data s) (execUpdate data t) := by
  by_cases hp : s.phase = .ready
  · have ha := absorb_rel h (by simp [hp]) data
    simp only [execUpdate, ← h.phase, if_pos hp]
    generalize absorb data s = o1, absorb data t = o2 at ha ⊢
    cases ha with
    | none => rfl
    | some h1 => exact respondOk_sameOutcome h1 _ _
  · simp only [execUpdate, ← h.phase, if_neg hp]
    exact raiseError_sameOutcome h _ _

theorem execFinal_sameOutcome {s t : State} (h : SameUsed s t) :
    SameOutcome (execFinal s) (execFinal t) := by
  by_cases hp : s.phase = .ready
  · have hne : s.phase ≠ .idle := by simp [hp]
    have ht := counterOf_advanceCounter_congr (h.counter hne) s.fill.toNat
    have hm := memWrite_rel_of_blockOf_eq (h.block hne) s.fill.toNat
      (zeros (s.variant.bb - s.fill.toNat))
    simp only [execFinal, ← h.phase, if_pos hp, ← h.variant hne, ← h.fill hne, ← h.lastnode hne,
      ← h.diglen hne]
    generalize memWrite s.variant s.buf s.fill.toNat (zeros (s.variant.bb - s.fill.toNat)) = o1,
      memWrite s.variant t.buf s.fill.toNat (zeros (s.variant.bb - s.fill.toNat)) = o2 at hm ⊢
    cases hm with
    | none => rfl
    | some hb =>
      have hw := usedWords_compressRegs_congr (h.words hne) hb ht true s.lastnode
      simp only [digestOf_congr hw]
      refine respondOk_sameOutcome ?_ _ _
      exact ⟨rfl, h.cin, h.rout, fun _ => h.variant hne, fun _ => h.diglen hne,
        fun _ => h.lastnode hne, fun _ => hw, fun _ => ht, fun _ => hb, fun _ => rfl⟩
  · simp only [execFinal, ← h.phase, if_neg hp]
    exact raiseError_sameOutcome h _ _

theorem execDlen_sameOutcome {s t : State} (h : SameUsed s t) :
    SameOutcome (execDlen s) (execDlen t) := by
  by_cases hp : s.phase = .idle
  · simp only [execDlen, ← h.phase, if_pos hp]
    exact raiseError_sameOutcome h _ _
  · simp only [execDlen, ← h.phase, if_neg hp, ← h.diglen hp]
    exact respondOk_sameOutcome h _ _

theorem exec_sameOutcome {s t : State} (h : SameUsed s t) (i : Instr) :
    SameOutcome (exec i s) (exec i t) := by
  cases i with
  | initB ln op => exact doInit_sameOutcome h .b ln op
  | initS ln op => exact doInit_sameOutcome h .s ln op
  | update data => exact execUpdate_sameOutcome h data
  | final => exact execFinal_sameOutcome h
  | dlen => exact execDlen_sameOutcome h

/-- Settles O50: both states decode the same head of `CIN`, and every command keeps the agreement. -/
theorem unusedStateIsNeverRead : Obligations.UnusedStateIsNeverRead := by
  intro s t h
  cases hd : decode s.cin with
  | held =>
    rw [step_of_held hd, step_of_held (h.cin ▸ hd)]
    exact h
  | bad opc why rest =>
    rw [step_of_bad hd, step_of_bad (h.cin ▸ hd)]
    exact raiseError_sameOutcome (h.withCin rest) _ _
  | command i rest =>
    rw [step_of_command hd, step_of_command (h.cin ▸ hd)]
    exact exec_sameOutcome (h.withCin rest) i

end Sys2Proof.Machine
end

section
/-! PROOFS of the statements about the block buffer and the streams (spec/20_memory.md): the bytes of a
block as message words, accesses that stay in range, and host traffic between two steps. -/
namespace Sys2Proof.Machine

/-! ### The bytes of a block as message words (spec/20_memory.md R56) -/

theorem two_pow_byte_succ (n : Nat) : 2 ^ (8 * (n + 1)) = 256 * 2 ^ (8 * n) := by
  rw [Nat.mul_succ, Nat.pow_add]; omega

theorem loadLe_lt (s : List Byte) : loadLe s < 2 ^ (8 * s.length) := by
  induction s with
  | nil => simp [loadLe]
  | cons b s ih =>
    simp only [loadLe, List.length_cons, two_pow_byte_succ]
    omega

/-- The weight of byte `k` is `2^(8k)` (40_wordops.md R104). -/
theorem byte_of_loadLe (s : List Byte) (k : Nat) :
    loadLe s / 2 ^ (8 * k) % 256 = (s.getD k 0#8).toNat := by
  induction s generalizing k with
  | nil => simp [loadLe]
  | cons b s ih =>
    cases k with
    | zero => simpa [loadLe] using b.isLt
    | succ k =>
      have htail : (b.toNat + 256 * loadLe s) / 256 = loadLe s := by omega
      rw [loadLe, two_pow_byte_succ, ← Nat.div_div_eq_div_mul, htail, ih, List.getD_cons_succ]

theorem slice_getD {n j : Nat} (hj : j < n) (s : List Byte) (a : Nat) :
    (slice s a n).getD j 0#8 = s.getD (a + j) 0#8 := by
  simp [slice, List.getD_eq_getElem?_getD, List.getElem?_take_of_lt hj]

/-- The bytes of a word's slice fill at most the word, so no byte is cut off. -/
theorem messageWord_toNat (w : Nat) (block : List Byte) (i : Nat) :
    (messageWord w block i).toNat = loadLe (slice block (i * (w / 8)) (w / 8)) := by
  have hlen : 8 * (slice block (i * (w / 8)) (w / 8)).length ≤ w := by simp; omega
  exact Nat.mod_eq_of_lt ((loadLe_lt _).trans_le (Nat.pow_le_pow_right (by decide) hlen))

theorem messageWords_getElem (w : Nat) (block : List Byte) {i : Nat} (hi : i < 16) :
    (messageWords w block)[i] = messageWord w block i := by
  interval_cases i <;> rfl

/-- Byte `k` of the block stands in word `k div WB` at byte `k mod WB` (41_compression.md R126). -/
theorem byte_of_messageWords {w : Nat} (hw : 0 < w / 8) (block : List Byte) {k : Nat}
    (hk : k / (w / 8) < 16) :
    ((messageWords w block)[k / (w / 8)]).toNat / 2 ^ (8 * (k % (w / 8))) % 256
      = (block.getD k 0#8).toNat := by
  rw [messageWords_getElem w block hk, messageWord_toNat, byte_of_loadLe,
    slice_getD (Nat.mod_lt k hw), Nat.mul_comm, Nat.div_add_mod]

/-- Settles O11, as the two instances of the word width. -/
theorem messageWordsHoldTheBlock : Obligations.MessageWordsHoldTheBlock :=
  ⟨fun block _ k => byte_of_messageWords (w := 64) (by decide) block (k := k) (by omega),
    fun block _ k => byte_of_messageWords (w := 32) (by decide) block (k := k) (by omega)⟩

/-! ### What a decoded packet is (spec/30_encoding.md R82) -/

/-- Everything the decoder of an INIT packet can answer other than an error. -/
theorem decodeInit_ok_cases {arg : Byte} {p : List Byte} {i : Instr} (h : decodeInit arg p = .ok i) :
    arg.extractLsb' 2 6 = 0#6 ∧ initFixedLen ≤ p.length ∧ p.length = announcedLen p ∧
      ((arg.getLsbD 0 = false ∧ i = .initB (arg.getLsbD 1) (initOperandsOf p)) ∨
       (arg.getLsbD 0 = true ∧ payloadByte p 14 = 0#8 ∧ payloadByte p 15 = 0#8 ∧
        i = .initS (arg.getLsbD 1) (initOperandsOf p))) := by
  unfold decodeInit at h
  split at h
  · cases h
  next harg =>
  split at h
  · cases h
  next hlen =>
  split at h
  · cases h
  next hann =>
  refine ⟨not_not.mp harg, Nat.le_of_not_lt hlen, not_not.mp hann, ?_⟩
  split at h
  next h0 =>
    split at h
    · cases h
    next hoff =>
    obtain ⟨h14, h15⟩ := not_or.mp hoff
    cases h
    exact .inr ⟨h0, not_not.mp h14, not_not.mp h15, rfl⟩
  next h0 =>
    cases h
    exact .inl ⟨Bool.eq_false_of_not_eq_true h0, rfl⟩

/-- Everything the decoder can answer other than an error. -/
theorem decodePacket_ok_cases {k : Packet} {i : Instr} (h : decodePacket k = .ok i) :
    (k.opc = opcInit ∧ decodeInit k.arg k.payload = .ok i) ∨
    (k.opc = opcUpdate ∧ k.arg = 0#8 ∧ i = .update k.payload) ∨
    (k.opc = opcFinal ∧ k.arg = 0#8 ∧ k.payload = [] ∧ i = .final) ∨
    (k.opc = opcDlen ∧ k.arg = 0#8 ∧ k.payload = [] ∧ i = .dlen) := by
  unfold decodePacket at h
  split_ifs at h with hinit hupdate harg hfinal harg hlen hdlen harg hlen
  · exact .inl ⟨hinit, h⟩
  · cases h
    exact .inr (.inl ⟨hupdate, not_not.mp harg, rfl⟩)
  · cases h
    exact .inr (.inr (.inl ⟨hfinal, not_not.mp harg,
      List.length_eq_zero_iff.mp (not_not.mp hlen), rfl⟩))
  · cases h
    exact .inr (.inr (.inr ⟨hdlen, not_not.mp harg,
      List.length_eq_zero_iff.mp (not_not.mp hlen), rfl⟩))

/-- The key of a decoded INIT is no longer than its length byte says (30_encoding.md R72). -/
theorem decodePacket_initCommand_key_le {k : Packet} {v : Variant} {ln : Bool} {op : InitOperands}
    (h : decodePacket k = .ok (initCommand v ln op)) : op.key.length ≤ op.keyLen.toNat := by
  obtain ⟨-, hi⟩ | ⟨-, -, he⟩ | ⟨-, -, -, he⟩ | ⟨-, -, -, he⟩ := decodePacket_ok_cases h
  · have hop : op = initOperandsOf k.payload := by
      obtain ⟨-, -, -, ⟨-, he⟩ | ⟨-, -, -, he⟩⟩ := decodeInit_ok_cases hi <;> cases v <;> cases he <;>
        rfl
    subst hop
    simp [initOperandsOf]
  all_goals cases v <;> cases he

/-! ### No access to the block buffer is out of range (spec/20_memory.md R53) -/

theorem kmax_le_bb (v : Variant) : v.kmax ≤ v.bb := by cases v <;> decide

theorem LegalConfig.keyLen_le {v : Variant} {op : InitOperands} (h : LegalConfig v op) :
    op.keyLen.toNat ≤ v.kmax := by
  cases v <;> obtain ⟨-, -, hkey, -⟩ := h <;> exact hkey

/-- The staged block is exactly one block when the key fits it (43_sequencer_commands.md R173). -/
theorem initialBlock_length {v : Variant} {op : InitOperands} (h : op.key.length ≤ v.bb) :
    (initialBlock v op).length = v.bb := by
  unfold initialBlock
  split
  · simp
  · simp; omega

theorem doInit_next {v : Variant} {op : InitOperands} (hkey : op.key.length ≤ op.keyLen.toNat)
    (ln : Bool) (s : State) : ∃ s', doInit v ln op s = .next s' := by
  obtain ⟨-, he⟩ | ⟨-, buf, -, he⟩ | ⟨hc, hm, -⟩ := doInit_cases v ln op s
  · exact ⟨_, he⟩
  · exact ⟨_, he⟩
  · have hlegal := (configOk_iff_legalConfig v op).mp hc
    have hfit : op.key.length ≤ v.bb := hkey.trans (hlegal.keyLen_le.trans (kmax_le_bb v))
    rw [memWrite_of_le _ _ _ _ (by simp [initialBlock_length hfit])] at hm
    cases hm

/-- After room is made the buffer is not full, so the next byte is in range. -/
theorem makeRoom_fill_lt {s : State} (h : s.fill.toNat ≤ s.variant.bb) :
    s.makeRoom.fill.toNat < s.makeRoom.variant.bb := by
  unfold State.makeRoom
  split
  · cases hv : s.variant <;> simp [hv, Variant.bb]
  · omega

theorem absorbByte_isSome (b : Byte) {s : State} (h : s.fill.toNat ≤ s.variant.bb) :
    ∃ s', absorbByte b s = some s' := by
  rw [absorbByte_eq_map, memWrite_of_le _ _ _ _ (makeRoom_fill_lt h)]
  exact ⟨_, rfl⟩

theorem absorb_isSome (data : List Byte) {s : State} (hp : s.phase = .ready) (hi : s.Inv) :
    ∃ s', absorb data s = some s' := by
  induction data generalizing s with
  | nil => exact ⟨s, rfl⟩
  | cons b bs ih =>
    obtain ⟨s1, h1⟩ := absorbByte_isSome b (hi.fillRange (by simp [hp]))
    obtain ⟨s', h'⟩ := ih ((absorbByte_phase h1).trans hp) (absorbByte_inv hp hi h1)
    exact ⟨s', by simp [absorb, h1, h']⟩

theorem execUpdate_next (data : List Byte) {s : State} (hi : s.Inv) :
    ∃ s', execUpdate data s = .next s' := by
  obtain ⟨-, he⟩ | ⟨-, s1, -, he⟩ | ⟨hp, ha, -⟩ := execUpdate_cases data s
  · exact ⟨_, he⟩
  · exact ⟨_, he⟩
  · obtain ⟨s1, h1⟩ := absorb_isSome data hp hi
    cases ha.symm.trans h1

theorem execFinal_next {s : State} (hi : s.Inv) : ∃ s', execFinal s = .next s' := by
  obtain ⟨-, he⟩ | ⟨-, buf, t, h, -, -, -, he⟩ | ⟨hp, hlt, -⟩ := execFinal_cases s
  · exact ⟨_, he⟩
  · exact ⟨_, he⟩
  · exact absurd (hi.fillRange (by simp [hp])) (Nat.not_le_of_lt hlt)

theorem execDlen_next (s : State) : ∃ s', execDlen s = .next s' := by
  obtain ⟨-, he⟩ | ⟨-, he⟩ := execDlen_cases s <;> exact ⟨_, he⟩

theorem exec_next_of_decodePacket {k : Packet} {i : Instr} (hd : decodePacket k = .ok i) {s : State}
    (hi : s.Inv) : ∃ s', exec i s = .next s' := by
  cases i with
  | initB ln op => exact doInit_next (decodePacket_initCommand_key_le (v := .b) hd) ln s
  | initS ln op => exact doInit_next (decodePacket_initCommand_key_le (v := .s) hd) ln s
  | update data => exact execUpdate_next data hi
  | final => exact execFinal_next hi
  | dlen => exact execDlen_next s

/-- Settles O48, by the cases of what a step can do. -/
theorem noStepStops : Obligations.NoStepStops := by
  intro s hi
  obtain ⟨-, he⟩ | ⟨k, rest, -, ⟨why, -, he⟩ | ⟨i, hd, he⟩⟩ := step_cases s
  · exact ⟨s, he⟩
  · exact ⟨_, he⟩
  · exact he ▸ exec_next_of_decodePacket hd (hi.withCin rest)

/-! ### Host traffic between two steps (spec/20_memory.md R59) -/

/-- The same registers with other streams. -/
def State.withStreams (s : State) (cin rout : List Byte) : State := { s with cin := cin, rout := rout }

/-- `f` uses the streams only to append to `ROUT`: where it answers a next state, it answers the same
registers and the same response whatever the streams hold. -/
def AppendsToRout (f : State → Host.Outcome State Fault Refusal) : Prop :=
  ∀ s s', f s = .next s' → s'.cin = s.cin ∧ ∃ out, s'.rout = s.rout ++ out ∧
    ∀ cin rout, f (s.withStreams cin rout) = .next (s'.withStreams cin (rout ++ out))

theorem next_appendsToRout : AppendsToRout .next := by
  intro s s' h
  cases h
  exact ⟨rfl, [], by simp⟩

theorem raiseError_appendsToRout (st : Status) (opc : Byte) : AppendsToRout (raiseError st opc) := by
  intro s s' h
  cases h
  exact ⟨rfl, response st opc [], rfl, fun _ _ => rfl⟩

theorem doInit_appendsToRout (v : Variant) (ln : Bool) (op : InitOperands) :
    AppendsToRout (doInit v ln op) := by
  intro s s' h
  obtain ⟨hc, he⟩ | ⟨hc, buf, hm, he⟩ | ⟨-, -, he⟩ := doInit_cases v ln op s <;>
    cases he.symm.trans h
  · exact ⟨rfl, response .configError opcInit [], rfl, fun _ _ => by simp only [doInit, hc]; rfl⟩
  · exact ⟨rfl, response .ok opcInit [], rfl,
      fun _ _ => by simp only [doInit, hc, State.withStreams, hm]; rfl⟩

theorem absorbByte_withStreams (b : Byte) (s : State) (cin rout : List Byte) :
    absorbByte b (s.withStreams cin rout) = (absorbByte b s).map (·.withStreams cin rout) := by
  have hroom :     (s.withStreams cin rout).makeRoom = s.makeRoom.withStreams cin rout :=
    (apply_ite (State.withStreams · cin rout) (s.fill.toNat = s.variant.bb) s.startBlock s).symm
  rw [absorbByte_eq_map, absorbByte_eq_map, hroom, Option.map_map]
  rfl

theorem absorb_withStreams {data : List Byte} {s s' : State} (h : absorb data s = some s')
    (cin rout : List Byte) :
    absorb data (s.withStreams cin rout) = some (s'.withStreams cin rout) := by
  induction data generalizing s with
  | nil => cases h; rfl
  | cons b bs ih =>
    simp only [absorb] at h ⊢
    rw [absorbByte_withStreams]
    cases h1 : absorbByte b s with
    | none => simp [h1] at h
    | some s1 =>
      rw [h1] at h
      exact ih h

theorem execUpdate_appendsToRout (data : List Byte) : AppendsToRout (execUpdate data) := by
  intro s s' h
  obtain ⟨hp, he⟩ | ⟨hp, s1, ha, he⟩ | ⟨-, -, he⟩ := execUpdate_cases data s <;>
    cases he.symm.trans h
  · exact ⟨rfl, response .stateError opcUpdate [], rfl, fun _ _ => if_neg hp⟩
  · obtain ⟨-, -, -, -, hcin, hrout⟩ := absorb_frame ha
    refine ⟨hcin, response .ok opcUpdate [], congrArg (· ++ _) hrout, fun cin rout => ?_⟩
    have hready : (s.withStreams cin rout).phase = .ready := hp
    simp only [execUpdate, if_pos hready, absorb_withStreams ha]
    rfl

theorem execFinal_appendsToRout : AppendsToRout execFinal := by
  intro s s' h
  obtain ⟨hp, he⟩ | ⟨hp, buf, t, h', hm, rfl, rfl, he⟩ | ⟨-, -, he⟩ := execFinal_cases s <;>
    cases he.symm.trans h
  · exact ⟨rfl, response .stateError opcFinal [], rfl, fun _ _ => if_neg hp⟩
  · exact ⟨rfl, _, rfl, fun _ _ => by simp only [execFinal, State.withStreams, hp, hm]; rfl⟩

theorem execDlen_appendsToRout : AppendsToRout execDlen := by
  intro s s' h
  obtain ⟨hp, he⟩ | ⟨hp, he⟩ := execDlen_cases s <;> cases he.symm.trans h
  · exact ⟨rfl, response .stateError opcDlen [], rfl, fun _ _ => if_pos hp⟩
  · exact ⟨rfl, response .ok opcDlen [s.diglen], rfl, fun _ _ => if_neg hp⟩

theorem exec_appendsToRout (i : Instr) : AppendsToRout (exec i) := by
  cases i with
  | initB ln op => exact doInit_appendsToRout .b ln op
  | initS ln op => exact doInit_appendsToRout .s ln op
  | update data => exact execUpdate_appendsToRout data
  | final => exact execFinal_appendsToRout
  | dlen => exact execDlen_appendsToRout

section Traffic

variable {f : State → Host.Outcome State Fault Refusal} (hf : AppendsToRout f) {s s' : State}
include hf

/-- Bytes written behind the packet stay behind what is left of `CIN`. -/
theorem AppendsToRout.hostWrite (h : f s = .next s') (bytes : List Byte) :
    f (s.hostWrite bytes) = .next (s'.hostWrite bytes) := by
  obtain ⟨hcin, out, hrout, hstreams⟩ := hf s s' h
  have he : s'.hostWrite bytes = s'.withStreams (s.cin ++ bytes) (s.rout ++ out) := by
    rw [← hrout, ← hcin]; rfl
  exact he ▸ hstreams (s.cin ++ bytes) s.rout

/-- Bytes taken from `ROUT` are the oldest ones, which no response touches. -/
theorem AppendsToRout.hostTake (h : f s = .next s') {n : Nat} (hn : n ≤ s.rout.length) :
    f (s.hostTake n) = .next (s'.hostTake n) ∧ s'.hostTaken n = s.hostTaken n := by
  obtain ⟨hcin, out, hrout, hstreams⟩ := hf s s' h
  have he : s'.hostTake n = s'.withStreams s.cin (s.rout.drop n ++ out) := by
    rw [← List.drop_append_of_le_length hn, ← hrout, ← hcin]; rfl
  exact ⟨he ▸ hstreams s.cin (s.rout.drop n),
    by simp [State.hostTaken, hrout, List.take_append_of_le_length hn]⟩

end Traffic

/-- A complete packet is read the same whatever follows it (30_encoding.md R82). -/
theorem takePacket_append {cin rest : List Byte} {k : Packet} (h : takePacket cin = some (k, rest))
    (bytes : List Byte) : takePacket (cin ++ bytes) = some (k, rest ++ bytes) := by
  unfold takePacket at h
  split at h
  next opc arg l0 l1 tail =>
    split at h
    · cases h
    next hlen =>
      cases h
      have hle : loadLe [l0, l1] ≤ tail.length := Nat.le_of_not_lt hlen
      simp only [List.cons_append, takePacket]
      rw [if_neg (by simp; omega), List.take_append_of_le_length hle,
        List.drop_append_of_le_length hle]
  next => cases h

/-- The same decoded head with more bytes behind the packet. -/
def Decoded.append (bytes : List Byte) : Decoded → Decoded
  | .held => .held
  | .bad opc why rest => .bad opc why (rest ++ bytes)
  | .command i rest => .command i (rest ++ bytes)

theorem decode_append {cin : List Byte} (h : decode cin ≠ .held) (bytes : List Byte) :
    decode (cin ++ bytes) = Decoded.append bytes (decode cin) := by
  unfold decode at h ⊢
  cases ht : takePacket cin with
  | none => simp [ht] at h
  | some kr =>
    obtain ⟨k, rest⟩ := kr
    simp only [takePacket_append ht bytes]
    cases decodePacket k <;> rfl

theorem step_hostWrite {s s' : State} (h : step s = .next s') (hheld : decode s.cin ≠ .held)
    (bytes : List Byte) : step (s.hostWrite bytes) = .next (s'.hostWrite bytes) := by
  have hap := decode_append hheld bytes
  cases hd : decode s.cin with
  | held => exact absurd hd hheld
  | bad opc why rest =>
    rw [step_of_bad hd] at h
    rw [step_of_bad (hap.trans (congrArg _ hd))]
    exact (raiseError_appendsToRout .badCommand opc).hostWrite h bytes
  | command i rest =>
    rw [step_of_command hd] at h
    rw [step_of_command (hap.trans (congrArg _ hd))]
    exact (exec_appendsToRout i).hostWrite h bytes

theorem step_hostTake {s s' : State} (h : step s = .next s') {n : Nat} (hn : n ≤ s.rout.length) :
    step (s.hostTake n) = .next (s'.hostTake n) ∧ s'.hostTaken n = s.hostTaken n := by
  have hcin : (s.hostTake n).cin = s.cin := rfl
  cases hd : decode s.cin with
  | held =>
    rw [step_of_held hd] at h
    rw [step_of_held (hcin ▸ hd)]
    exact next_appendsToRout.hostTake h hn
  | bad opc why rest =>
    rw [step_of_bad hd] at h
    rw [step_of_bad (hcin ▸ hd)]
    exact (raiseError_appendsToRout .badCommand opc).hostTake h hn
  | command i rest =>
    rw [step_of_command hd] at h
    rw [step_of_command (hcin ▸ hd)]
    exact (exec_appendsToRout i).hostTake h hn

/-- Settles O54: a step uses the streams only at the head of `CIN` and the tail of `ROUT`. -/
theorem hostTrafficDoesNotDisturbAStep : Obligations.HostTrafficDoesNotDisturbAStep :=
  fun _ _ bytes _ h =>
    ⟨fun hheld => step_hostWrite h hheld bytes, fun hn => step_hostTake h hn⟩

end Sys2Proof.Machine
end

section
/-! PROOFS of the statements about the encoding (spec/30_encoding.md): decoder and encoder are
inverse, the opcode map, and the packets that spell no command. -/
namespace Sys2Proof.Machine

/-! ### The little-endian functions are inverse (spec/40_wordops.md R105) -/

theorem loadLe_storeLe {x n : Nat} (h : x < 2 ^ (8 * n)) : loadLe (storeLe x n) = x := by
  induction n generalizing x with
  | zero => simp at h; simp [storeLe, loadLe, h]
  | succ n ih =>
    rw [two_pow_byte_succ] at h
    simp only [storeLe, loadLe, BitVec.toNat_ofNat, ih (x := x / 256) (by omega)]
    omega

theorem storeLe_loadLe (s : List Byte) : storeLe (loadLe s) s.length = s := by
  induction s with
  | nil => rfl
  | cons b s ih =>
    have hhead : BitVec.ofNat 8 (loadLe (b :: s)) = b :=
      BitVec.eq_of_toNat_eq (by simp [loadLe]; omega)
    have htail : loadLe (b :: s) / 256 = loadLe s := by simp only [loadLe]; omega
    rw [List.length_cons, storeLe, hhead, htail, ih]

/-- A register stored in all its bytes reads back. -/
theorem ofNat_loadLe_storeLe {w n : Nat} (h : w ≤ 8 * n) (x : BitVec w) :
    BitVec.ofNat w (loadLe (storeLe x.toNat n)) = x := by
  rw [loadLe_storeLe (x.isLt.trans_le (Nat.pow_le_pow_right (by decide) h)), BitVec.ofNat_toNat,
    BitVec.setWidth_eq]

/-- Bytes that fit a register are stored back unchanged. -/
theorem storeLe_toNat_ofNat_loadLe {w n : Nat} {s : List Byte} (hn : s.length = n)
    (hw : 8 * n ≤ w) : storeLe (BitVec.ofNat w (loadLe s)).toNat n = s := by
  subst hn
  rw [BitVec.toNat_ofNat,
    Nat.mod_eq_of_lt ((loadLe_lt s).trans_le (Nat.pow_le_pow_right (by decide) hw)), storeLe_loadLe]

/-! ### The payload of INIT (spec/30_encoding.md R72) -/

/-- Behind the fixed part stand the key, the salt and the personalization. -/
theorem initPayload_drop (op : InitOperands) (n : Nat) :
    (initPayload op).drop (20 + n) = (op.key ++ op.salt ++ op.pers).drop n := by
  rw [← List.drop_drop]
  rfl

theorem announcedLen_initPayload {op : InitOperands} (h : op.wellFormed = true) :
    announcedLen (initPayload op) = (initPayload op).length := by
  obtain ⟨hkey, hsalt, hpers⟩ := op.wellFormed_iff.mp h
  have h18 : (payloadByte (initPayload op) 18).toNat = op.salt.length := Nat.mod_eq_of_lt hsalt
  have h19 : (payloadByte (initPayload op) 19).toNat = op.pers.length := Nat.mod_eq_of_lt hpers
  rw [announcedLen, h18, h19, initPayload_length, hkey]
  rfl

theorem initOperandsOf_initPayload {op : InitOperands} (h : op.wellFormed = true) :
    initOperandsOf (initPayload op) = op := by
  obtain ⟨hkey, hsalt, -⟩ := op.wellFormed_iff.mp h
  have h1 : (payloadByte (initPayload op) 1).toNat = op.key.length := hkey.symm
  have h18 : (payloadByte (initPayload op) 18).toNat = op.salt.length := Nat.mod_eq_of_lt hsalt
  have hleaf : BitVec.ofNat 32 (loadLe (slice (initPayload op) 4 4)) = op.leafLen :=
    ofNat_loadLe_storeLe (n := 4) (by decide) op.leafLen
  have hoff : BitVec.ofNat 64 (loadLe (slice (initPayload op) 8 8)) = op.nodeOffset :=
    ofNat_loadLe_storeLe (n := 8) (by decide) op.nodeOffset
  have hk : slice (initPayload op) 20 op.key.length = op.key := by
    simp [slice, initPayload_drop op 0]
  have hs : slice (initPayload op) (20 + op.key.length) op.salt.length = op.salt := by
    simp [slice, initPayload_drop]
  have hp : (initPayload op).drop (20 + op.key.length + op.salt.length) = op.pers := by
    rw [Nat.add_assoc, initPayload_drop, ← List.length_append, List.drop_left]
  simp only [initOperandsOf, h1, h18, hleaf, hoff, hk, hs, hp]
  rfl

theorem slice_append_drop (s : List Byte) (a n : Nat) :
    slice s a n ++ s.drop (a + n) = s.drop a := by
  rw [slice, ← List.drop_drop, List.take_append_drop]

theorem slice_succ {s : List Byte} {a : Nat} (h : a < s.length) (n : Nat) :
    slice s a (n + 1) = payloadByte s a :: slice s (a + 1) n := by
  rw [slice, List.drop_eq_getElem_cons h, List.take_succ_cons, payloadByte, slice,
    List.getD_eq_getElem _ _ h]

/-- Four bytes of the fixed part that stand for themselves. -/
theorem slice_four {s : List Byte} {a : Nat} (h : a + 4 ≤ s.length) :
    slice s a 4 = [payloadByte s a, payloadByte s (a + 1), payloadByte s (a + 2),
      payloadByte s (a + 3)] := by
  rw [slice_succ (by omega), slice_succ (by omega), slice_succ (by omega), slice_succ (by omega)]
  rfl

/-- The lengths of the three variable fields of a payload of the announced length. -/
theorem initOperandsOf_lengths {p : List Byte} (h : p.length = announcedLen p) :
    (initOperandsOf p).key.length = (payloadByte p 1).toNat ∧
    (initOperandsOf p).salt.length = (payloadByte p 18).toNat ∧
    (initOperandsOf p).pers.length = (payloadByte p 19).toNat := by
  simp only [announcedLen, initFixedLen] at h
  simp only [initOperandsOf, slice_length, List.length_drop]
  omega

theorem initOperandsOf_wellFormed {p : List Byte} (h : p.length = announcedLen p) :
    (initOperandsOf p).wellFormed = true := by
  obtain ⟨hkey, hsalt, hpers⟩ := initOperandsOf_lengths h
  exact (initOperandsOf p).wellFormed_iff.mpr
    ⟨hkey, hsalt.trans_lt (payloadByte p 18).isLt, hpers.trans_lt (payloadByte p 19).isLt⟩

theorem initPayload_initOperandsOf {p : List Byte} (h : p.length = announcedLen p) :
    initPayload (initOperandsOf p) = p := by
  have h20 : 20 ≤ p.length := by rw [h, announcedLen, initFixedLen]; omega
  obtain ⟨-, hsalt, hpers⟩ := initOperandsOf_lengths h
  have hhead : [payloadByte p 0, payloadByte p 1, payloadByte p 2, payloadByte p 3]
      = slice p 0 4 := (slice_four (by omega)).symm
  have hmid : [payloadByte p 16, payloadByte p 17, payloadByte p 18, payloadByte p 19]
      = slice p 16 4 := (slice_four (by omega)).symm
  have hleaf : storeLe (initOperandsOf p).leafLen.toNat 4 = slice p 4 4 :=
    storeLe_toNat_ofNat_loadLe (by simp; omega) (by decide)
  have hoff : storeLe (initOperandsOf p).nodeOffset.toNat 8 = slice p 8 8 :=
    storeLe_toNat_ofNat_loadLe (by simp; omega) (by decide)
  calc initPayload (initOperandsOf p)
      = slice p 0 4 ++ slice p 4 4 ++ slice p 8 8 ++ slice p 16 4
          ++ (initOperandsOf p).key ++ (initOperandsOf p).salt ++ (initOperandsOf p).pers := by
        rw [initPayload, hleaf, hoff, hsalt, hpers, BitVec.ofNat_toNat, BitVec.ofNat_toNat,
          BitVec.setWidth_eq, BitVec.setWidth_eq, ← hhead, ← hmid]
        rfl
    _ = p := by
        simp [initOperandsOf, slice_append_drop, slice_append_drop p 16 4, slice_append_drop p 8 8,
          slice_append_drop p 4 4, slice_append_drop p 0 4]

/-- The reserved bits of the node offset of variant S are payload bytes 14 and 15
(30_encoding.md R72). -/
theorem offsetFitsS_initOperandsOf (p : List Byte) :
    (initOperandsOf p).offsetFitsS = true ↔ payloadByte p 14 = 0#8 ∧ payloadByte p 15 = 0#8 := by
  have hlt : loadLe (slice p 8 8) < 2 ^ 64 :=
    (loadLe_lt _).trans_le (Nat.pow_le_pow_right (by decide) (by simp; omega))
  have h14 : loadLe (slice p 8 8) / 2 ^ 48 % 256 = (p.getD 14 0#8).toNat :=
    (byte_of_loadLe (slice p 8 8) 6).trans (congrArg _ (slice_getD (by decide) p 8))
  have h15 : loadLe (slice p 8 8) / 2 ^ 56 % 256 = (p.getD 15 0#8).toNat :=
    (byte_of_loadLe (slice p 8 8) 7).trans (congrArg _ (slice_getD (by decide) p 8))
  simp only [InitOperands.offsetFitsS, initOperandsOf, Config.nodeOffsetBoundS, payloadByte,
    BitVec.toNat_ofNat, decide_eq_true_eq, ← BitVec.toNat_inj]
  omega

/-! ### `ARG` of INIT (spec/30_encoding.md R72) -/

/-- An `ARG` byte without reserved bits is the one of its two flags. -/
theorem eq_initArg {arg : Byte} (h : arg.extractLsb' 2 6 = 0#6) :
    arg = initArg (if arg.getLsbD 0 then .s else .b) (arg.getLsbD 1) := by
  decide +revert

/-! ### The decoder and the encoder are inverse (spec/30_encoding.md R80, R82) -/

theorem decodeInit_initPayload {v : Variant} {ln : Bool} {op : InitOperands}
    (h : (initCommand v ln op).WellFormed) :
    decodeInit (initArg v ln) (initPayload op) = .ok (initCommand v ln op) := by
  have hwf : op.wellFormed = true := by
    cases v with
    | b => exact h
    | s => exact (Bool.and_eq_true_iff.mp h).left
  have harg : (initArg v ln).extractLsb' 2 6 = 0#6 := by cases v <;> cases ln <;> rfl
  have hln : (initArg v ln).getLsbD 1 = ln := by cases v <;> cases ln <;> rfl
  have hlen : ¬ (initPayload op).length < initFixedLen := by
    rw [initPayload_length, initFixedLen]; omega
  rw [decodeInit, if_neg (not_not.mpr harg), if_neg hlen,
    if_neg (not_not.mpr (announcedLen_initPayload hwf).symm), hln, initOperandsOf_initPayload hwf]
  cases v with
  | b => cases ln <;> rfl
  | s =>
    have hoff : op.offsetFitsS = true := (Bool.and_eq_true_iff.mp h).right
    rw [← initOperandsOf_initPayload hwf, offsetFitsS_initOperandsOf] at hoff
    have h0 : (initArg .s ln).getLsbD 0 = true := by cases ln <;> rfl
    rw [if_pos h0, if_neg (by simp [hoff])]
    rfl

theorem decodePacket_packetOf {i : Instr} (h : i.WellFormed) : decodePacket (packetOf i) = .ok i := by
  cases i with
  | initB ln op => exact decodeInit_initPayload (v := .b) h
  | initS ln op => exact decodeInit_initPayload (v := .s) h
  | update data => rfl
  | final => rfl
  | dlen => rfl

theorem takePacket_encode {i : Instr} (h : i.WellFormed) (rest : List Byte) :
    takePacket (encode i ++ rest) = some (packetOf i, rest) := by
  cases i with
  | initB ln op => exact Laws.Framing.initB ln op h rest
  | initS ln op => exact Laws.Framing.initS ln op h rest
  | update data => exact Laws.Framing.update data h rest
  | final => exact Laws.Framing.final h rest
  | dlen => exact Laws.Framing.dlen h rest

/-- Settles O20: the packet of a command is taken whole, and decodes to it. -/
theorem decodeInvertsEncode : Obligations.DecodeInvertsEncode := by
  intro i rest h
  simp only [decode, takePacket_encode h, decodePacket_packetOf h]

/-- What is taken from the head of a stream is a packet with its own framing. -/
theorem bytes_of_takePacket {cin rest : List Byte} {k : Packet}
    (h : takePacket cin = some (k, rest)) :
    cin = k.bytes ++ rest ∧ k.payload.length ≤ Config.maxLen := by
  unfold takePacket at h
  split at h
  next opc arg l0 l1 tail =>
    split at h
    · cases h
    next hlen =>
      cases h
      have htake : (tail.take (loadLe [l0, l1])).length = loadLe [l0, l1] := by simp; omega
      have hlt : loadLe [l0, l1] < 65536 := by simpa using loadLe_lt [l0, l1]
      have hstore : storeLe (loadLe [l0, l1]) 2 = [l0, l1] := storeLe_loadLe [l0, l1]
      refine ⟨?_, htake.trans_le (Nat.le_of_lt_succ hlt)⟩
      simp [Packet.bytes, htake, hstore]
  next => cases h

theorem packetOf_of_decodeInit {arg : Byte} {p : List Byte} {i : Instr}
    (h : decodeInit arg p = .ok i) : i.WellFormed ∧ packetOf i = ⟨opcInit, arg, p⟩ := by
  obtain ⟨harg, -, hann, hcases⟩ := decodeInit_ok_cases h
  have hwf := initOperandsOf_wellFormed hann
  have harg := eq_initArg harg
  obtain ⟨h0, rfl⟩ | ⟨h0, h14, h15, rfl⟩ := hcases <;> rw [h0] at harg
  · exact ⟨hwf, congrArg₂ (Packet.mk opcInit) harg.symm (initPayload_initOperandsOf hann)⟩
  · exact ⟨Bool.and_eq_true_iff.mpr ⟨hwf, (offsetFitsS_initOperandsOf p).mpr ⟨h14, h15⟩⟩,
      congrArg₂ (Packet.mk opcInit) harg.symm (initPayload_initOperandsOf hann)⟩

theorem packetOf_of_decodePacket {k : Packet} {i : Instr} (hlen : k.payload.length ≤ Config.maxLen)
    (h : decodePacket k = .ok i) : i.WellFormed ∧ packetOf i = k := by
  obtain ⟨opc, arg, p⟩ := k
  obtain ⟨rfl, hi⟩ | ⟨rfl, rfl, rfl⟩ | ⟨rfl, rfl, rfl, rfl⟩ | ⟨rfl, rfl, rfl, rfl⟩ :=
    decodePacket_ok_cases h
  · exact packetOf_of_decodeInit hi
  · exact ⟨decide_eq_true hlen, rfl⟩
  · exact ⟨rfl, rfl⟩
  · exact ⟨rfl, rfl⟩

/-- Everything the decoder does to reach a command. -/
theorem decode_eq_command {cin rest : List Byte} {i : Instr} :
    decode cin = .command i rest ↔ ∃ k, takePacket cin = some (k, rest) ∧ decodePacket k = .ok i := by
  unfold decode
  cases takePacket cin with
  | none => simp
  | some kr =>
    obtain ⟨k, tail⟩ := kr
    simp only [Option.some.injEq, Prod.mk.injEq, and_assoc, exists_eq_left']
    cases decodePacket k with
    | error why => simp
    | ok j => simp [and_comm]

/-- Settles O21: the packet at the head of the stream is the packet of the command it decodes to. -/
theorem encodeInvertsDecode : Obligations.EncodeInvertsDecode := by
  intro cin rest i h
  obtain ⟨k, ht, hd⟩ := decode_eq_command.mp h
  obtain ⟨hcin, hlen⟩ := bytes_of_takePacket ht
  obtain ⟨hwf, rfl⟩ := packetOf_of_decodePacket hlen hd
  exact ⟨hwf, hcin⟩

/-! ### The opcode map (spec/30_encoding.md R71, R80) -/

/-- The header word holds `OPC`, `ARG` and `LEN` from the low end (30_encoding.md R71). -/
theorem headerWord_toNat {k : Packet} (h : k.payload.length ≤ 65535) :
    (headerWord k).toNat = k.opc.toNat + 2 ^ 8 * k.arg.toNat + 2 ^ 16 * k.payload.length := by
  have htake : k.bytes.take 4 = [k.opc, k.arg, BitVec.ofNat 8 k.payload.length,
    BitVec.ofNat 8 (k.payload.length / 256)] := rfl
  simp only [headerWord, htake, loadLe, BitVec.toNat_ofNat]
  omega

/-- The low half of the header word is `OPC` and `ARG`, whatever `LEN` is. -/
theorem headerWord_low {k : Packet} (h : k.payload.length ≤ 65535) :
    headerWord k &&& 0x0000FFFF#32 = BitVec.ofNat 32 (k.opc.toNat + 2 ^ 8 * k.arg.toNat) := by
  apply BitVec.eq_of_toNat_eq
  rw [BitVec.toNat_and, headerWord_toNat h]
  have hmask : (0x0000FFFF#32).toNat = 2 ^ 16 - 1 := rfl
  rw [hmask, Nat.and_two_pow_sub_one_eq_mod, BitVec.toNat_ofNat]
  omega

/-- The mask of INIT ignores `LEN` and the last-node bit, and keeps the variant bit. -/
theorem headerWord_initCommand (v : Variant) (ln : Bool) (op : InitOperands) {k : Packet}
    (hlen : k.payload.length ≤ 65535) (hopc : k.opc = opcInit) (harg : k.arg = initArg v ln) :
    headerWord k &&& rowMask (initCommand v ln op) = rowMatch (initCommand v ln op) := by
  have hmask : rowMask (initCommand v ln op) = 0x0000FFFF#32 &&& 0x0000FDFF#32 := by cases v <;> rfl
  rw [hmask, ← BitVec.and_assoc, headerWord_low hlen, hopc, harg]
  cases v <;> cases ln <;> rfl

theorem headerWord_of_decodePacket {k : Packet} {i : Instr} (hlen : k.payload.length ≤ 65535)
    (h : decodePacket k = .ok i) : headerWord k &&& rowMask i = rowMatch i := by
  obtain ⟨-, rfl⟩ := packetOf_of_decodePacket hlen h
  cases i with
  | initB ln op => exact headerWord_initCommand .b ln op hlen rfl rfl
  | initS ln op => exact headerWord_initCommand .s ln op hlen rfl rfl
  | update data => exact headerWord_low hlen
  | final => rfl
  | dlen => rfl

/-- The full mask leaves one packet: the opcode, with `ARG` and `LEN` zero. -/
theorem eq_of_headerWord {k : Packet} {opc : Byte} (hlen : k.payload.length ≤ 65535)
    (h : headerWord k &&& 0xFFFFFFFF#32 = opc.setWidth 32) : k = ⟨opc, 0#8, []⟩ := by
  have hw : (headerWord k).toNat = opc.toNat := by
    have hall : headerWord k = opc.setWidth 32 := BitVec.and_allOnes.symm.trans h
    rw [hall]
    exact BitVec.toNat_setWidth_of_le (by decide)
  rw [headerWord_toNat hlen] at hw
  obtain ⟨opc', arg, p⟩ := k
  have hopc : opc' = opc := BitVec.eq_of_toNat_eq (by simp only at hw hlen; omega)
  have harg : arg = 0#8 := BitVec.eq_of_toNat_eq (by simp at hw hlen ⊢; omega)
  have hp : p = [] := List.length_eq_zero_iff.mp (by simp only at hw hlen; omega)
  rw [hopc, harg, hp]

/-- Settles O23: the header word is `OPC + 2^8 * ARG + 2^16 * LEN`, so its rows are read off. -/
theorem headerMatchesTheOpcodeMap : Obligations.HeaderMatchesTheOpcodeMap := by
  intro k hlen
  refine ⟨fun i => headerWord_of_decodePacket hlen, fun h => ?_, fun h => ?_, fun h => ?_⟩
  · have hlow := congrArg BitVec.toNat ((headerWord_low hlen).symm.trans h)
    obtain ⟨opc, arg, p⟩ := k
    have hopc : opc = opcUpdate := BitVec.eq_of_toNat_eq (by simp [opcUpdate] at hlow ⊢; omega)
    have harg : arg = 0#8 := BitVec.eq_of_toNat_eq (by simp at hlow ⊢; omega)
    rw [hopc, harg]
    rfl
  · rw [eq_of_headerWord (opc := opcFinal) hlen h]
    rfl
  · rw [eq_of_headerWord (opc := opcDlen) hlen h]
    rfl

/-! ### The packets that spell no command (spec/30_encoding.md R81) -/

/-- The decoder answers an error. -/
def Refused (r : Except DecodeError Instr) : Prop := ∃ why, r = .error why

@[simp] theorem refused_error (why : DecodeError) : Refused (.error why) := ⟨why, rfl⟩

@[simp] theorem not_refused_ok (i : Instr) : ¬ Refused (.ok i) := nofun

@[simp] theorem refused_ite {c : Prop} [Decidable c] (r q : Except DecodeError Instr) :
    Refused (if c then r else q) ↔ (c ∧ Refused r) ∨ (¬ c ∧ Refused q) := by
  split <;> simp [*]

/-- `ARG[7:2]` of INIT is reserved (30_encoding.md R72). -/
theorem reservedArg_iff (arg : Byte) : arg.extractLsb' 2 6 ≠ 0#6 ↔ 4 ≤ arg.toNat := by
  decide +revert

/-- `ARG[0]` of INIT is the variant (30_encoding.md R72). -/
theorem variantBit_iff (arg : Byte) : arg.getLsbD 0 = true ↔ arg.toNat % 2 = 1 := by
  decide +revert

/-- The rows of INIT. -/
theorem decodeInit_refused_iff (arg : Byte) (p : List Byte) :
    Refused (decodeInit arg p) ↔
      4 ≤ arg.toNat ∨ p.length < initFixedLen ∨ p.length ≠ announcedLen p ∨
        (arg.toNat % 2 = 1 ∧ (payloadByte p 14 ≠ 0#8 ∨ payloadByte p 15 ≠ 0#8)) := by
  simp only [decodeInit, refused_ite, refused_error, not_refused_ok, reservedArg_iff, variantBit_iff]
  tauto

theorem decodePacket_refused_iff (k : Packet) : Refused (decodePacket k) ↔ IllegalPacket k := by
  obtain ⟨opc, arg, p⟩ := k
  simp only [decodePacket, refused_ite, refused_error, not_refused_ok, decodeInit_refused_iff,
    IllegalPacket, opcInit, opcUpdate, opcFinal, opcDlen, ← BitVec.toNat_inj, announcedLen,
    initFixedLen, payloadByte]
  have hrows : opc.toNat = 1 ∨ opc.toNat = 2 ∨ opc.toNat = 3 ∨ opc.toNat = 4 ∨
      (opc.toNat ≠ 1 ∧ opc.toNat ≠ 2 ∧ opc.toNat ≠ 3 ∧ opc.toNat ≠ 4 ∧
        (opc.toNat = 0 ∨ 5 ≤ opc.toNat)) := by omega
  have harg : arg.toNat = 0 ↔ arg = 0#8 := BitVec.toNat_inj (y := 0#8)
  obtain h | h | h | h | ⟨h1, h2, h3, h4, h | h⟩ := hrows
  · simp [h]
  · simp [h, harg]
  · simp [h, harg]; tauto
  · simp [h, harg]; tauto
  · simp [h]
  · simp [h, h1, h2, h3, h4]

/-- Settles O24: the decoder refuses the packets of the table, and only those. -/
theorem illegalPacketsAreBadCommand : Obligations.IllegalPacketsAreBadCommand := by
  intro s k rest ht
  refine ⟨fun hill => ?_, fun hlegal => ?_⟩
  · obtain ⟨why, hd⟩ := (decodePacket_refused_iff k).mpr hill
    have hbad : decode s.cin = .bad k.opc why rest := by simp only [decode, ht, hd]
    exact step_of_bad hbad
  · cases hd : decodePacket k with
    | error why => exact absurd ((decodePacket_refused_iff k).mp ⟨why, hd⟩) hlegal
    | ok i => exact ⟨i, decode_eq_command.mpr ⟨k, ht, hd⟩⟩

end Sys2Proof.Machine
end

section
/-! PROOFS of the statements about the packets of a step (spec/30_encoding.md R77, R82, R83): a complete
packet is consumed and answered by one response. -/
namespace Sys2Proof.Machine

/-! ### Every packet is consumed (spec/30_encoding.md R82, R83) -/

/-- Settles O25, by the equation of a step with a command at the head of `CIN`. -/
theorem stepRunsTheDecodedCommand : Obligations.StepRunsTheDecodedCommand :=
  fun _ _ _ => step_of_command

theorem step_of_takePacket_none {s : State} (h : takePacket s.cin = none) : step s = .next s :=
  step_of_held (by simp only [decode, h])

/-- Settles O26: neither an incomplete header nor an incomplete payload is a packet. -/
theorem incompletePacketHoldsTheEngine : Obligations.IncompletePacketHoldsTheEngine := by
  refine fun s => ⟨fun hlen => step_of_takePacket_none ?_,
    fun b0 b1 b2 b3 p hcin hlen => step_of_takePacket_none ?_⟩
  · unfold takePacket
    split
    next hcin => rw [hcin] at hlen; simp at hlen; omega
    next => rfl
  · rw [hcin]
    exact if_pos (by simpa [loadLe] using hlen)

theorem step_of_takePacket {s : State} {k : Packet} {rest : List Byte}
    (ht : takePacket s.cin = some (k, rest)) :
    (∃ why, decodePacket k = .error why ∧
      step s = raiseError .badCommand k.opc (s.withCin rest)) ∨
    ∃ i, decodePacket k = .ok i ∧ step s = exec i (s.withCin rest) := by
  obtain ⟨hn, -⟩ | ⟨k', rest', ht', hcases⟩ := step_cases s
  · cases hn.symm.trans ht
  · cases ht'.symm.trans ht
    exact hcases

theorem step_cin {s s' : State} {k : Packet} {rest : List Byte}
    (ht : takePacket s.cin = some (k, rest)) (h : step s = .next s') : s'.cin = rest := by
  obtain ⟨why, -, he⟩ | ⟨i, -, he⟩ := step_of_takePacket ht
  · exact (raiseError_appendsToRout .badCommand k.opc _ _ (he.symm.trans h)).left
  · exact (exec_appendsToRout i _ _ (he.symm.trans h)).left

theorem takePacket_rest_ne {cin rest : List Byte} {k : Packet}
    (h : takePacket cin = some (k, rest)) : cin ≠ rest := by
  obtain ⟨hcin, -⟩ := bytes_of_takePacket h
  intro he
  have hlen := congrArg List.length (he.symm.trans hcin)
  simp [Packet.bytes] at hlen
  omega

/-- Settles O27: a complete packet has at least its header, and the step consumes it. -/
theorem onlyAHeldEngineStandsStill : Obligations.OnlyAHeldEngineStandsStill := by
  refine ⟨fun s h => ?_, fun s k rest hi ht => ?_⟩
  · cases ht : takePacket s.cin with
    | none => simp only [decode, ht]
    | some kr => exact absurd (step_cin ht h) (takePacket_rest_ne ht)
  · obtain ⟨s', h⟩ := noStepStops s hi
    exact ⟨s', h, step_cin ht h⟩

/-! ### Every packet gets one response (spec/30_encoding.md R77, R78) -/

/-- `s'` is `s` with one response to `opc` on `ROUT`: an error without a payload, or OK with
`okPayload` from a context in use. -/
def Answers (s s' : State) (opc : Byte) (okPayload : List Byte) : Prop :=
  ∃ st payload, s'.rout = s.rout ++ response st opc payload ∧ (st ≠ .ok → payload = []) ∧
    (st = .ok → s'.phase ≠ .idle ∧ payload = okPayload)

theorem answers_error {st : Status} (hst : st ≠ .ok) (opc : Byte) (s : State)
    (okPayload : List Byte) : Answers s (s.emit (response st opc [])) opc okPayload :=
  ⟨st, [], rfl, fun _ => rfl, fun h => absurd h hst⟩

theorem answers_ok {s s' : State} {opc : Byte} {payload : List Byte} (hp : s'.phase ≠ .idle)
    (hrout : s'.rout = s.rout ++ response .ok opc payload) : Answers s s' opc payload :=
  ⟨.ok, payload, hrout, fun h => absurd rfl h, fun _ => ⟨hp, rfl⟩⟩

theorem answers_of_doInit {v : Variant} {ln : Bool} {op : InitOperands} {s s' : State}
    (h : doInit v ln op s = .next s') : Answers s s' opcInit [] := by
  obtain ⟨-, he⟩ | ⟨-, buf, -, he⟩ | ⟨-, -, he⟩ := doInit_cases v ln op s <;>
    cases he.symm.trans h
  · exact answers_error (st := .configError) nofun opcInit s []
  · exact answers_ok nofun rfl

theorem answers_of_execUpdate {data : List Byte} {s s' : State}
    (h : execUpdate data s = .next s') : Answers s s' opcUpdate [] := by
  obtain ⟨-, he⟩ | ⟨hp, s1, ha, he⟩ | ⟨-, -, he⟩ := execUpdate_cases data s <;>
    cases he.symm.trans h
  · exact answers_error (st := .stateError) nofun opcUpdate s []
  · obtain ⟨hphase, -, -, -, -, hrout⟩ := absorb_frame ha
    exact answers_ok (by simp [hphase, hp]) (by simp [hrout])

theorem answers_of_execFinal {s s' : State} (h : execFinal s = .next s') :
    Answers s s' opcFinal (digestOf s'.variant s'.h s'.diglen.toNat) := by
  obtain ⟨-, he⟩ | ⟨-, buf, t, hs, -, -, -, he⟩ | ⟨-, -, he⟩ := execFinal_cases s <;>
    cases he.symm.trans h
  · exact answers_error (st := .stateError) nofun opcFinal s _
  · exact answers_ok nofun rfl

theorem answers_of_execDlen {s s' : State} (h : execDlen s = .next s') :
    Answers s s' opcDlen [s'.diglen] := by
  obtain ⟨-, he⟩ | ⟨hp, he⟩ := execDlen_cases s <;> cases he.symm.trans h
  · exact answers_error (st := .stateError) nofun opcDlen s _
  · exact answers_ok hp rfl

/-- The payload of an OK response, from the state the command leaves. -/
def okPayload (s' : State) : Instr → List Byte
  | .final => digestOf s'.variant s'.h s'.diglen.toNat
  | .dlen => [s'.diglen]
  | _ => []

theorem answers_of_exec {i : Instr} {s s' : State} (h : exec i s = .next s') :
    Answers s s' (packetOf i).opc (okPayload s' i) := by
  cases i with
  | initB ln op => exact answers_of_doInit (v := .b) h
  | initS ln op => exact answers_of_doInit (v := .s) h
  | update data => exact answers_of_execUpdate h
  | final => exact answers_of_execFinal h
  | dlen => exact answers_of_execDlen h

theorem dmax_eq (v : Variant) : v.dmax = 8 * v.wb := by cases v <;> rfl

theorem okPayload_length_le (s' : State) (i : Instr) : (okPayload s' i).length ≤ 64 := by
  cases i with
  | final =>
    have hwb : 8 * s'.variant.wb ≤ 64 := by cases s'.variant <;> decide
    exact (digestOf_length ..).trans_le ((Nat.min_le_right _ _).trans hwb)
  | _ => simp [okPayload]

theorem Answers.isResponse {s s' : State} {opc : Byte} {okp : List Byte}
    (h : Answers s s' opc okp) (hlen : okp.length ≤ 64) :
    ∃ r, s'.rout = s.rout ++ r ∧ IsResponse opc r := by
  obtain ⟨st, payload, hrout, herr, hok⟩ := h
  refine ⟨_, hrout, st, payload, rfl, ?_, herr⟩
  by_cases hst : st = .ok
  · obtain ⟨-, rfl⟩ := hok hst
    exact hlen
  · simp [herr hst]

theorem RoutWellFormed.append {rout r : List Byte} {opc : Byte} (h : RoutWellFormed rout)
    (hr : IsResponse opc r) : RoutWellFormed (rout ++ r) := by
  obtain ⟨rs, rfl, hrs⟩ := h
  refine ⟨rs ++ [r], by simp, fun q hq => ?_⟩
  obtain hq | hq := List.mem_append.mp hq
  · exact hrs q hq
  · cases List.mem_singleton.mp hq
    exact ⟨opc, hr⟩

theorem step_isResponse {s s' : State} {k : Packet} {rest : List Byte}
    (ht : takePacket s.cin = some (k, rest)) (h : step s = .next s') :
    ∃ r, s'.rout = s.rout ++ r ∧ IsResponse k.opc r := by
  obtain ⟨-, hlen⟩ := bytes_of_takePacket ht
  obtain ⟨why, -, he⟩ | ⟨i, hd, he⟩ := step_of_takePacket ht
  · cases he.symm.trans h
    exact (answers_error (st := .badCommand) nofun k.opc (s.withCin rest) []).isResponse (by simp)
  · obtain ⟨-, rfl⟩ := packetOf_of_decodePacket hlen hd
    exact (answers_of_exec (he.symm.trans h)).isResponse (okPayload_length_le s' i)

/-- Settles O49: a held engine appends nothing, and a packet appends one response. -/
theorem routStaysWellFormed : Obligations.RoutStaysWellFormed := by
  intro s s' hrout h
  cases ht : takePacket s.cin with
  | none =>
    cases (step_of_takePacket_none ht).symm.trans h
    exact hrout
  | some kr =>
    obtain ⟨r, he, hr⟩ := step_isResponse ht h
    exact he ▸ hrout.append hr

theorem statusCode_toNat_le (st : Status) : (statusCode st).toNat ≤ 3 := by cases st <;> decide

theorem statusCode_eq_zero_iff (st : Status) : statusCode st = 0#8 ↔ st = .ok := by
  cases st <;> decide

/-- FINAL and DLEN leave `DIGLEN` as it is (10_state.md R29). -/
theorem exec_diglen {i : Instr} {s s' : State} (h : exec i s = .next s')
    (hi : i = .final ∨ i = .dlen) : s'.diglen = s.diglen := by
  obtain ⟨v, ln, op, rfl⟩ | ⟨-, hd, -⟩ := effect_config (effect_of_exec h)
  · cases v <;> simp [initCommand] at hi
  · exact hd

/-- What an OK response carries, by the opcode it echoes (30_encoding.md R77). -/
theorem okPayload_cases {i : Instr} {s s' : State} (h : exec i s = .next s') (hi : s'.Inv)
    (hp : s'.phase ≠ .idle) :
    ((packetOf i).opc = 1#8 ∧ okPayload s' i = []) ∨ ((packetOf i).opc = 2#8 ∧ okPayload s' i = []) ∨
    ((packetOf i).opc = 3#8 ∧ (okPayload s' i).length = s.diglen.toNat ∧
      okPayload s' i = digestOf s'.variant s'.h s'.diglen.toNat) ∨
    ((packetOf i).opc = 4#8 ∧ okPayload s' i = [s.diglen]) := by
  cases i with
  | initB ln op => exact .inl ⟨rfl, rfl⟩
  | initS ln op => exact .inl ⟨rfl, rfl⟩
  | update data => exact .inr (.inl ⟨rfl, rfl⟩)
  | final =>
    obtain ⟨-, hmax⟩ := hi.diglenRange hp
    have hdig := exec_diglen h (.inl rfl)
    have hlen : (okPayload s' .final).length = s'.diglen.toNat :=
      (digestOf_length ..).trans (Nat.min_eq_left (dmax_eq s'.variant ▸ hmax))
    exact .inr (.inr (.inl ⟨rfl, hlen.trans (congrArg BitVec.toNat hdig), rfl⟩))
  | dlen => exact .inr (.inr (.inr ⟨rfl, congrArg ([·]) (exec_diglen h (.inr rfl))⟩))

/-- Settles O28: the step is a refusal or a command, and each gives its one response. -/
theorem everyPacketGetsOneResponse : Obligations.EveryPacketGetsOneResponse := by
  intro s s' k rest hi ht h
  refine ⟨step_cin ht h, ?_⟩
  obtain ⟨-, hlen⟩ := bytes_of_takePacket ht
  obtain ⟨why, -, he⟩ | ⟨i, hd, he⟩ := step_of_takePacket ht
  · cases he.symm.trans h
    exact ⟨3#8, [], (List.append_nil _).symm, by decide, fun _ => rfl, nofun⟩
  · obtain ⟨-, rfl⟩ := packetOf_of_decodePacket hlen hd
    have hexec := he.symm.trans h
    obtain ⟨st, payload, hrout, herr, hok⟩ := answers_of_exec hexec
    refine ⟨statusCode st, payload, by simpa [response, storeLe_pair] using hrout,
      statusCode_toNat_le st, fun hne => herr (mt (statusCode_eq_zero_iff st).mpr hne), fun h0 => ?_⟩
    obtain ⟨hp, rfl⟩ := hok ((statusCode_eq_zero_iff st).mp h0)
    exact okPayload_cases (s := s.withCin rest) hexec (stepKeepsTheInvariants s s' hi h) hp

/-- Settles O22: each packet and each response of 30_encoding.md R86 is evaluated. -/
theorem workedEncodings : Obligations.WorkedEncodings := by
  have hfinal (d : List Byte) (hd : d.length = 64) :
      response .ok opcFinal d = [0x00, 0x03, 0x40, 0x00] ++ d := by
    rw [response, storeLe_pair, hd]
    rfl
  exact ⟨by decide, by decide, by decide, by decide, by decide, by decide, by decide, by decide,
    by decide, by decide, hfinal, by decide, by decide, by decide⟩

end Sys2Proof.Machine
end

section
/-! PROOFS of the statements about the word operations (spec/40_wordops.md): rotation, the little-endian
functions and the two halves of the byte counter. -/
namespace Sys2Proof.Machine

/-! ### Rotation (spec/40_wordops.md R103) -/

theorem div_two_pow_lt {w n x : Nat} (hn : n ≤ w) (hx : x < 2 ^ w) : x / 2 ^ n < 2 ^ (w - n) :=
  Nat.div_lt_of_lt_mul (by rwa [← Nat.pow_add, Nat.add_sub_cancel' hn])

/-- The bits above `n` and the `n` bits below them fill a word, so the sum of R103 does not wrap. -/
theorem rotr_toNat {w n : Nat} (hn : n ≤ w) (x : BitVec w) :
    (rotr x n).toNat = x.toNat / 2 ^ n + x.toNat % 2 ^ n * 2 ^ (w - n) := by
  have hhigh := div_two_pow_lt hn x.isLt
  have hlow : x.toNat % 2 ^ n + 1 ≤ 2 ^ n := Nat.mod_lt _ (Nat.two_pow_pos n)
  refine Nat.mod_eq_of_lt ?_
  calc x.toNat / 2 ^ n + x.toNat % 2 ^ n * 2 ^ (w - n)
      < (x.toNat % 2 ^ n + 1) * 2 ^ (w - n) := by rw [Nat.add_one_mul]; omega
    _ ≤ 2 ^ n * 2 ^ (w - n) := Nat.mul_le_mul_right _ hlow
    _ = 2 ^ w := by rw [← Nat.pow_add, Nat.add_sub_cancel' hn]

/-- The low `w - n` bits come from above, the high `n` bits from the bottom. -/
theorem rotr_getLsbD {w n : Nat} (hn : n ≤ w) (x : BitVec w) (k : Nat) :
    (rotr x n).getLsbD k =
      if k < w - n then x.getLsbD (n + k) else (x.toNat % 2 ^ n).testBit (k - (w - n)) := by
  rw [BitVec.getLsbD, rotr_toNat hn, Nat.add_comm, Nat.mul_comm,
    Nat.testBit_two_pow_mul_add _ (div_two_pow_lt hn x.isLt), Nat.testBit_div_two_pow, Nat.add_comm,
    BitVec.getLsbD]

/-- Settles O1: below `w - n` the index `k + n` does not wrap, above it wraps once. -/
theorem rotrMovesEveryBit : Obligations.RotrMovesEveryBit := by
  intro w n x _ hn
  refine ⟨rotr_toNat hn.le x, fun k hk => ?_⟩
  rw [rotr_getLsbD hn.le]
  split
  next hlow => rw [Nat.mod_eq_of_lt (by omega), Nat.add_comm]
  next hhigh =>
    have hidx : (k + n) % w = k - (w - n) := by
      rw [Nat.mod_eq_sub_mod (by omega), Nat.mod_eq_of_lt (by omega)]; omega
    rw [hidx, Nat.testBit_mod_two_pow, decide_eq_true (by omega), Bool.true_and, BitVec.getLsbD]

/-! ### The little-endian functions (spec/40_wordops.md R104, R105) -/

/-- Settles O2, by induction on the bytes: behind the first byte every weight grows by `2^8`. -/
theorem loadLeIsWeightedSum : Obligations.LoadLeIsWeightedSum := by
  intro s
  induction s with
  | nil => rfl
  | cons b s ih =>
    rw [loadLe, ih, List.length_cons, List.range_succ_eq_map, List.map_cons, List.sum_cons,
      List.map_map, ← List.sum_map_mul_left]
    simp [Function.comp_def, two_pow_byte_succ, Nat.mul_assoc]

/-- Settles O3: the bytes of `store_le` are read off what `load_le` makes of them. -/
theorem storeLeAndLoadLeAreInverse : Obligations.StoreLeAndLoadLeAreInverse :=
  ⟨fun x n hx => ⟨storeLe_length x n,
    fun k _ => by rw [← byte_of_loadLe, loadLe_storeLe hx], loadLe_storeLe hx⟩, storeLe_loadLe⟩

/-! ### The halves of the byte counter (spec/40_wordops.md R107) -/

@[simp] theorem counterLo_toNat (w t : Nat) : (counterLo w t).toNat = t % 2 ^ w :=
  Nat.mod_mod _ _

@[simp] theorem counterHi_toNat (w t : Nat) : (counterHi w t).toNat = t / 2 ^ w % 2 ^ w :=
  Nat.mod_mod _ _

/-- Below `2^(2w)` the quotient fits one word, so its reduction modulo `2^w` loses nothing. -/
theorem counter_eq_halves {w t : Nat} (ht : t < 2 ^ (2 * w)) :
    t = (counterLo w t).toNat + 2 ^ w * (counterHi w t).toNat := by
  have hhi : t / 2 ^ w < 2 ^ w :=
    (div_two_pow_lt (by omega) ht).trans_eq (congrArg (2 ^ ·) (by omega))
  rw [counterLo_toNat, counterHi_toNat, Nat.mod_eq_of_lt hhi, Nat.mod_add_div]

/-- Settles O4, from the value of each half and their recombination. -/
theorem counterSplitsIntoHalves : Obligations.CounterSplitsIntoHalves :=
  fun w t => ⟨counterLo_toNat w t, counterHi_toNat w t, counter_eq_halves⟩

end Sys2Proof.Machine
end

section
/-! PROOFS of the statements about G and F (spec/41_compression.md): SIGMA, the mixing function on its
four words and on the working vector, the order of its calls, and the compression function. -/
namespace Sys2Proof.Machine

/-! ### G as two half steps, each a bijection (spec/41_compression.md R124) -/

/-- Together the two amounts make a full turn of the word. -/
theorem rotr_rotr_sub {w n : Nat} (hn : n ≤ w) (x : BitVec w) : rotr (rotr x n) (w - n) = x := by
  apply BitVec.eq_of_toNat_eq
  have hhigh := div_two_pow_lt hn x.isLt
  rw [rotr_toNat (Nat.sub_le w n), rotr_toNat hn, Nat.sub_sub_self hn,
    Nat.add_mul_div_right _ _ (Nat.two_pow_pos _), Nat.div_eq_of_lt hhigh, Nat.zero_add,
    Nat.add_mul_mod_self_right, Nat.mod_eq_of_lt hhigh, Nat.mod_add_div']

theorem rotr_sub_rotr {w n : Nat} (hn : n ≤ w) (x : BitVec w) : rotr (rotr x (w - n)) n = x := by
  simpa only [Nat.sub_sub_self hn] using rotr_rotr_sub (Nat.sub_le w n) x

/-- Four consecutive steps of G: rotation amounts `r` and `r'`, message word `x`. -/
def halfMix {w : Nat} (r r' : Nat) (x : BitVec w) (q : Quad w) : Quad w :=
  let a := q.a + q.b + x
  let d := rotr (q.d ^^^ a) r
  let c := q.c + d
  ⟨a, rotr (q.b ^^^ c) r', c, d⟩

/-- The same four steps undone, the last one first. -/
def halfUnmix {w : Nat} (r r' : Nat) (x : BitVec w) (q : Quad w) : Quad w :=
  let b := rotr q.b (w - r') ^^^ q.c
  ⟨q.a - x - b, b, q.c - q.d, rotr q.d (w - r) ^^^ q.a⟩

theorem mixWords_eq_halfMix {w : Nat} (L : Lane w) (q : Quad w) (x y : BitVec w) :
    mixWords L q x y = halfMix L.r3 L.r4 y (halfMix L.r1 L.r2 x q) := rfl

theorem halfUnmix_halfMix {w r r' : Nat} (hr : r ≤ w) (hr' : r' ≤ w) (x : BitVec w) (q : Quad w) :
    halfUnmix r r' x (halfMix r r' x q) = q := by
  simp [halfUnmix, halfMix, rotr_rotr_sub hr, rotr_rotr_sub hr']

theorem halfMix_halfUnmix {w r r' : Nat} (hr : r ≤ w) (hr' : r' ≤ w) (x : BitVec w) (q : Quad w) :
    halfMix r r' x (halfUnmix r r' x q) = q := by
  simp [halfUnmix, halfMix, rotr_sub_rotr hr, rotr_sub_rotr hr']

theorem halfMix_bijective {w r r' : Nat} (hr : r ≤ w) (hr' : r' ≤ w) (x : BitVec w) :
    Function.Bijective (halfMix r r' x) :=
  Function.bijective_iff_has_inverse.mpr
    ⟨halfUnmix r r' x, halfUnmix_halfMix hr hr' x, halfMix_halfUnmix hr hr' x⟩

theorem mixWords_bijective {w : Nat} {L : Lane w} (h1 : L.r1 ≤ w) (h2 : L.r2 ≤ w) (h3 : L.r3 ≤ w)
    (h4 : L.r4 ≤ w) (x y : BitVec w) : Function.Bijective fun q => mixWords L q x y := by
  simp only [mixWords_eq_halfMix]
  exact (halfMix_bijective h3 h4 y).comp (halfMix_bijective h1 h2 x)

/-- Settles O7: no rotation amount of either lane exceeds the word width. -/
theorem mixIsBijective : Obligations.MixIsBijective :=
  ⟨mixWords_bijective (by decide) (by decide) (by decide) (by decide),
    mixWords_bijective (by decide) (by decide) (by decide) (by decide)⟩

/-! ### A call of G on the working vector (spec/41_compression.md R123, R124) -/

/-- The four words a call reads. -/
def GCall.read {w : Nat} (g : GCall) (v : Vector (BitVec w) 16) : Quad w :=
  ⟨v[g.a], v[g.b], v[g.c], v[g.d]⟩

/-- The working vector after a call writes the four words of `q`. -/
def GCall.write {w : Nat} (g : GCall) (q : Quad w) (v : Vector (BitVec w) 16) :
    Vector (BitVec w) 16 :=
  (((v.set g.a q.a).set g.b q.b).set g.c q.c).set g.d q.d

/-- The positions of a call. -/
def GCall.positions (g : GCall) : List (Fin 16) := [g.a, g.b, g.c, g.d]

theorem GCall.read_congr {w : Nat} {g : GCall} {v v' : Vector (BitVec w) 16}
    (h : ∀ i ∈ g.positions, v[i] = v'[i]) : g.read v = g.read v' := by
  simpa [GCall.positions, GCall.read] using h

theorem mixAt_eq_write {w : Nat} (L : Lane w) (m : Vector (BitVec w) 16) (row : Vector (Fin 16) 16)
    (g : GCall) (v : Vector (BitVec w) 16) :
    mixAt L m row g v = g.write (mixWords L (g.read v) m[row[g.x]] m[row[g.y]]) v := rfl

/-- The word at a position after a write; where two positions are equal, the later one counts. -/
theorem GCall.write_getElem {w : Nat} (g : GCall) (q : Quad w) (v : Vector (BitVec w) 16)
    (i : Fin 16) :
    (g.write q v)[i] =
      if g.d = i then q.d else if g.c = i then q.c else if g.b = i then q.b
      else if g.a = i then q.a else v[i] := by
  simp [GCall.write, Vector.getElem_set, Fin.ext_iff]

theorem GCall.write_getElem_of_notMem {w : Nat} {g : GCall} {i : Fin 16} (hi : i ∉ g.positions)
    (q : Quad w) (v : Vector (BitVec w) 16) : (g.write q v)[i] = v[i] := by
  simp only [GCall.positions, List.mem_cons, List.not_mem_nil, or_false, not_or, eq_comm (a := i)] at hi
  obtain ⟨ha, hb, hc, hd⟩ := hi
  rw [GCall.write_getElem, if_neg hd, if_neg hc, if_neg hb, if_neg ha]

/-- At its own positions a write shows nothing of the vector it writes to. -/
theorem GCall.write_getElem_of_mem {w : Nat} {g : GCall} {i : Fin 16} (hi : i ∈ g.positions)
    (q : Quad w) (v v' : Vector (BitVec w) 16) : (g.write q v)[i] = (g.write q v')[i] := by
  simp only [GCall.positions, List.mem_cons, List.not_mem_nil, or_false] at hi
  simp only [GCall.write_getElem]
  rcases hi with rfl | rfl | rfl | rfl <;> simp

/-- Settles O6: at distinct positions no later write of the call hides an earlier one. -/
theorem mixTakesTheEightSteps : Obligations.MixTakesTheEightSteps := by
  refine ⟨⟨rfl, rfl, rfl, rfl⟩, ⟨rfl, rfl, rfl, rfl⟩, fun w L m row g v hab hac had hbc hbd hcd => ?_⟩
  refine ⟨_, _, _, _, _, _, _, _, rfl, rfl, rfl, rfl, rfl, rfl, rfl, rfl, ?_, ?_, ?_, ?_⟩ <;>
    rw [mixAt_eq_write, GCall.write_getElem]
  · rw [if_neg had.symm, if_neg hac.symm, if_neg hab.symm, if_pos rfl]; rfl
  · rw [if_neg hbd.symm, if_neg hbc.symm, if_pos rfl]; rfl
  · rw [if_neg hcd.symm, if_pos rfl]; rfl
  · rw [if_pos rfl]; rfl

/-- Settles O8: outside the four positions nothing is written; at them the words written depend on the
words read. -/
theorem mixTouchesOnlyItsFourWords : Obligations.MixTouchesOnlyItsFourWords := by
  refine fun w L m row g v v' => ⟨fun i ha hb hc hd => ?_, fun ha hb hc hd i hi => ?_⟩
  · exact GCall.write_getElem_of_notMem (by simp [GCall.positions, ha, hb, hc, hd]) _ v
  · have hread : g.read v = g.read v' := by simp only [GCall.read, ha, hb, hc, hd]
    rw [mixAt_eq_write, mixAt_eq_write, hread]
    exact GCall.write_getElem_of_mem (by simpa [GCall.positions] using hi) _ v v'

/-! ### The order of the calls (spec/41_compression.md R123) -/

/-- Two calls that share no position. -/
def GCall.Apart (g g' : GCall) : Prop := ∀ i ∈ g.positions, i ∉ g'.positions

theorem GCall.Apart.symm {g g' : GCall} (h : g.Apart g') : g'.Apart g :=
  fun i hi' hi => h i hi hi'

theorem GCall.Apart.read_write {w : Nat} {g g' : GCall} (h : g.Apart g') (q : Quad w)
    (v : Vector (BitVec w) 16) : g.read (g'.write q v) = g.read v :=
  GCall.read_congr fun i hi => GCall.write_getElem_of_notMem (h i hi) q v

theorem GCall.Apart.write_comm {w : Nat} {g g' : GCall} (h : g.Apart g') (q q' : Quad w)
    (v : Vector (BitVec w) 16) : g.write q (g'.write q' v) = g'.write q' (g.write q v) := by
  have hat (i : Fin 16) : (g.write q (g'.write q' v))[i] = (g'.write q' (g.write q v))[i] := by
    by_cases hi : i ∈ g.positions
    · rw [GCall.write_getElem_of_notMem (h i hi)]
      exact GCall.write_getElem_of_mem hi q _ _
    · rw [GCall.write_getElem_of_notMem hi]
      by_cases hi' : i ∈ g'.positions
      · exact GCall.write_getElem_of_mem hi' q' _ _
      · rw [GCall.write_getElem_of_notMem hi', GCall.write_getElem_of_notMem hi',
          GCall.write_getElem_of_notMem hi]
  exact Vector.ext fun i hi => hat ⟨i, hi⟩

theorem GCall.Apart.mixAt_comm {w : Nat} {g g' : GCall} (h : g.Apart g') (L : Lane w)
    (m : Vector (BitVec w) 16) (row : Vector (Fin 16) 16) (v : Vector (BitVec w) 16) :
    mixAt L m row g (mixAt L m row g' v) = mixAt L m row g' (mixAt L m row g v) := by
  simp only [mixAt_eq_write, h.read_write, h.symm.read_write, h.write_comm]

theorem mixCalls_eq_foldl {w : Nat} (L : Lane w) (m : Vector (BitVec w) 16)
    (row : Vector (Fin 16) 16) (gs : List GCall) (v : Vector (BitVec w) 16) :
    mixCalls L m row gs v = gs.foldl (fun v g => mixAt L m row g v) v := by
  induction gs generalizing v with
  | nil => rfl
  | cons g gs ih => exact ih _

theorem mixCalls_append {w : Nat} (L : Lane w) (m : Vector (BitVec w) 16)
    (row : Vector (Fin 16) 16) (gs gs' : List GCall) (v : Vector (BitVec w) 16) :
    mixCalls L m row (gs ++ gs') v = mixCalls L m row gs' (mixCalls L m row gs v) := by
  simp only [mixCalls_eq_foldl, List.foldl_append]

/-- Calls that are pairwise apart commute, so any order of them gives one vector. -/
theorem mixCalls_perm {w : Nat} {gs gs' : List GCall}
    (hapart : ∀ g ∈ gs', ∀ g' ∈ gs', g ≠ g' → g.Apart g') (hperm : gs.Perm gs') (L : Lane w)
    (m : Vector (BitVec w) 16) (row : Vector (Fin 16) 16) (v : Vector (BitVec w) 16) :
    mixCalls L m row gs v = mixCalls L m row gs' v := by
  rw [mixCalls_eq_foldl, mixCalls_eq_foldl]
  refine (hperm.symm.foldl_eq' (fun g hg g' hg' v => ?_) v).symm
  by_cases heq : g = g'
  · rw [heq]
  · exact (hapart g hg g' hg' heq).symm.mixAt_comm L m row v

theorem columnCalls_apart : ∀ g ∈ columnCalls, ∀ g' ∈ columnCalls, g ≠ g' → g.Apart g' := by
  unfold GCall.Apart
  decide

theorem diagonalCalls_apart : ∀ g ∈ diagonalCalls, ∀ g' ∈ diagonalCalls, g ≠ g' → g.Apart g' := by
  unfold GCall.Apart
  decide

/-- Settles O9: the calls of one kind are pairwise apart. -/
theorem callsOfOneKindRunInAnyOrder : Obligations.CallsOfOneKindRunInAnyOrder :=
  fun _ L m row v _ => ⟨fun h => mixCalls_perm columnCalls_apart h L m row v,
    fun h => mixCalls_perm diagonalCalls_apart h L m row v⟩

/-! ### SIGMA and F (spec/41_compression.md R122, R127, R128) -/

/-- Settles O5: the ten rows are compared with the list of all indices; `sigmaRow` is that lookup. -/
theorem sigmaRowsArePermutations : Obligations.SigmaRowsArePermutations :=
  ⟨by decide, fun _ => rfl⟩

/-- Settles O10: the counter halves and the two flags, each unfolded at its word. -/
theorem workingVectorHoldsItsInputs : Obligations.WorkingVectorHoldsItsInputs := by
  intro w L h t last lastnode
  have hchain (i : Fin 8) : (workingVector L h t last lastnode)[i.val] = h[i] := by
    fin_cases i <;> rfl
  have hnode : applyLastNode last lastnode L.iv[7] =
      if last = true ∧ lastnode = true then ~~~L.iv[7] else L.iv[7] := by
    simp only [applyLastNode, Bool.and_eq_true]
  exact ⟨hchain, rfl, rfl, rfl, rfl, rfl, rfl, rfl, hnode⟩

theorem afterRounds_succ {w : Nat} (L : Lane w) (m v : Vector (BitVec w) 16) (n : Nat) :
    afterRounds L m v (n + 1) =
      mixCalls L m (sigmaRow n) diagonalCalls
        (mixCalls L m (sigmaRow n) columnCalls (afterRounds L m v n)) :=
  mixCalls_append L m (sigmaRow n) columnCalls diagonalCalls _

theorem foldVector_getElem {w : Nat} (h : Vector (BitVec w) 8) (v : Vector (BitVec w) 16)
    (i : Fin 8) : (foldVector h v)[i] = h[i] ^^^ v[i.val] ^^^ v[i.val + 8] := by
  fin_cases i <;> rfl

/-- Settles O12: the sequence is `afterRounds`, from the initial working vector on. -/
theorem compressFoldsTheRounds : Obligations.CompressFoldsTheRounds :=
  fun w L h block t last lastnode =>
    ⟨afterRounds L (messageWords w block) (workingVector L h t last lastnode), rfl,
      afterRounds_succ L _ _, foldVector_getElem h _⟩

/-! ### The worked examples of F (spec/41_compression.md R131, R132) -/

/-- Settles O13: each printed value of R131 is compared with what the kernel evaluates. -/
theorem compressWorkedExampleB : Obligations.CompressWorkedExampleB := by
  unfold Obligations.CompressWorkedExampleB
  exact ⟨by decide, by decide, by decide +kernel, by decide +kernel, by decide +kernel⟩

/-- Settles O14: each printed value of R132 is compared with what the kernel evaluates. -/
theorem compressWorkedExampleS : Obligations.CompressWorkedExampleS := by
  unfold Obligations.CompressWorkedExampleS
  exact ⟨by decide, by decide, by decide +kernel, by decide +kernel, by decide +kernel⟩

end Sys2Proof.Machine
end

section
/-! PROOFS of the statements about the parameter block (spec/42_parameter_block.md): the words its
fields stand in, and the padding of a short salt or personalization. -/
namespace Sys2Proof.Machine

/-! ### Parts of a byte sequence as numbers -/

theorem loadLe_append_zeros (s : List Byte) (n : Nat) : loadLe (s ++ zeros n) = loadLe s := by
  induction s with
  | nil =>
    induction n with
    | zero => rfl
    | succ n ih => simpa [zeros, loadLe, List.replicate_succ] using ih
  | cons b s ih => simp only [List.cons_append, loadLe, ih]

/-- The bytes that are cut off are the most significant ones. -/
theorem loadLe_storeLe_mod (x n : Nat) : loadLe (storeLe x n) = x % 2 ^ (8 * n) := by
  induction n generalizing x with
  | zero => simp [storeLe, loadLe, Nat.mod_one]
  | succ n ih =>
    rw [storeLe, loadLe, ih, two_pow_byte_succ, Nat.mod_mul, BitVec.toNat_ofNat]

theorem slice_append_of_le {s : List Byte} {a n : Nat} (h : a + n ≤ s.length) (t : List Byte) :
    slice (s ++ t) a n = slice s a n := by
  rw [slice, List.drop_append_of_le_length (by omega), List.take_append_of_le_length (by simp; omega),
    slice]

theorem slice_append_of_length_le {s : List Byte} {a : Nat} (h : s.length ≤ a) (t : List Byte)
    (n : Nat) : slice (s ++ t) a n = slice t (a - s.length) n := by
  rw [slice, List.drop_append, List.drop_of_length_le h, List.nil_append, slice]

/-! ### The salt and the personalization in their fields (spec/42_parameter_block.md R155) -/

theorem padField_length {m : Nat} {s : List Byte} (h : s.length ≤ m) : (padField m s).length = m := by
  simp [padField]; omega

/-- A field that is filled already takes no more padding. -/
theorem padField_padField (m : Nat) (s : List Byte) : padField m (padField m s) = padField m s := by
  have hfull : m - (padField m s).length = 0 := by simp [padField]; omega
  rw [padField, hfull, zeros_zero, List.append_nil]

/-- The padding adds nothing to the number that bytes of the field make. -/
theorem loadLe_slice_padField (m : Nat) (s : List Byte) (a n : Nat) :
    loadLe (slice (padField m s) a n) = loadLe (slice s a n) := by
  obtain ⟨k, hk⟩ : ∃ k, slice (padField m s) a n = slice s a n ++ zeros k := by
    simp only [slice, padField, zeros, List.drop_append, List.take_append, List.drop_replicate,
      List.take_replicate]
    exact ⟨_, rfl⟩
  rw [hk, loadLe_append_zeros]

/-! ### The words of the parameter block (spec/42_parameter_block.md R152, R153, R156) -/

theorem paramWord_toNat (w : Nat) (P : List Byte) (i : Nat) :
    (paramWord w P i).toNat = loadLe (slice P (i * (w / 8)) (w / 8)) :=
  messageWord_toNat w P i

/-- A field of two words that starts at word `k` fills words `k` and `k + 1`, zero-padded. -/
theorem paramWord_padField {w k j : Nat} {P pre post s : List Byte}
    (hP : P = pre ++ padField (2 * (w / 8)) s ++ post) (hpre : pre.length = k * (w / 8))
    (hs : s.length ≤ 2 * (w / 8)) (hj : j < 2) :
    (paramWord w P (k + j)).toNat = loadLe (slice s (j * (w / 8)) (w / 8)) := by
  have hfrom : pre.length ≤ (k + j) * (w / 8) :=
    hpre ▸ Nat.mul_le_mul_right _ (Nat.le_add_right k j)
  have hplace : (k + j) * (w / 8) - pre.length = j * (w / 8) := by
    rw [hpre, Nat.add_mul, Nat.add_sub_cancel_left]
  have hin : j * (w / 8) + w / 8 ≤ (padField (2 * (w / 8)) s).length := by
    rw [padField_length hs, ← Nat.succ_mul]
    exact Nat.mul_le_mul_right _ hj
  rw [paramWord_toNat, hP, List.append_assoc, slice_append_of_length_le hfrom, hplace,
    slice_append_of_le hin, loadLe_slice_padField]

theorem paramBlockB_length {op : InitOperands} (hsalt : op.salt.length ≤ 16)
    (hpers : op.pers.length ≤ 16) : (paramBlockB op).length = 64 := by
  simp [paramBlockB, padField_length hsalt, padField_length hpers]

theorem paramBlockS_length {op : InitOperands} (hsalt : op.salt.length ≤ 8)
    (hpers : op.pers.length ≤ 8) : (paramBlockS op).length = 32 := by
  simp [paramBlockS, padField_length hsalt, padField_length hpers]

theorem paramBlockB_word0 (op : InitOperands) :
    (paramWord 64 (paramBlockB op) 0).toNat = op.digestLen.toNat + 2 ^ 8 * op.keyLen.toNat
      + 2 ^ 16 * op.fanout.toNat + 2 ^ 24 * op.depth.toNat + 2 ^ 32 * op.leafLen.toNat := by
  have hbytes : slice (paramBlockB op) (0 * (64 / 8)) (64 / 8)
      = [op.digestLen, op.keyLen, op.fanout, op.depth] ++ storeLe op.leafLen.toNat 4 := rfl
  rw [paramWord_toNat, hbytes]
  simp only [List.cons_append, List.nil_append, loadLe, loadLe_storeLe (n := 4) op.leafLen.isLt]
  omega

theorem paramBlockB_word1 (op : InitOperands) : paramWord 64 (paramBlockB op) 1 = op.nodeOffset :=
  ofNat_loadLe_storeLe (n := 8) (by decide) op.nodeOffset

theorem paramBlockB_word2 (op : InitOperands) :
    (paramWord 64 (paramBlockB op) 2).toNat = op.nodeDepth.toNat + 2 ^ 8 * op.innerLen.toNat := by
  have hbytes : slice (paramBlockB op) (2 * (64 / 8)) (64 / 8)
      = [op.nodeDepth, op.innerLen] ++ zeros 6 := rfl
  rw [paramWord_toNat, hbytes, loadLe_append_zeros]
  simp [loadLe]

theorem paramBlockB_word3 (op : InitOperands) : paramWord 64 (paramBlockB op) 3 = 0#64 := by
  have hbytes : slice (paramBlockB op) (3 * (64 / 8)) (64 / 8) = zeros 8 := rfl
  rw [paramWord, hbytes]
  rfl

theorem paramBlockB_salt {op : InitOperands} (hsalt : op.salt.length ≤ 16)
    {j : Nat} (hj : j < 2) :
    (paramWord 64 (paramBlockB op) (4 + j)).toNat = loadLe (slice op.salt (j * 8) 8) :=
  paramWord_padField (w := 64) (k := 4) rfl rfl hsalt hj

theorem paramBlockB_pers {op : InitOperands} (hsalt : op.salt.length ≤ 16)
    (hpers : op.pers.length ≤ 16) {j : Nat} (hj : j < 2) :
    (paramWord 64 (paramBlockB op) (6 + j)).toNat = loadLe (slice op.pers (j * 8) 8) :=
  paramWord_padField (w := 64) (k := 6) (List.append_nil _).symm
    (by simp [padField_length hsalt]) hpers hj

/-- Settles O15, word by word. -/
theorem parameterBlockLayoutB : Obligations.ParameterBlockLayoutB := fun op hsalt hpers =>
  ⟨paramBlockB_length hsalt hpers, paramBlockB_word0 op, paramBlockB_word1 op, paramBlockB_word2 op,
    paramBlockB_word3 op,
    paramBlockB_salt hsalt (j := 0) (by decide), paramBlockB_salt hsalt (j := 1) (by decide),
    paramBlockB_pers hsalt hpers (j := 0) (by decide),
    paramBlockB_pers hsalt hpers (j := 1) (by decide)⟩

theorem paramBlockS_word0 (op : InitOperands) :
    (paramWord 32 (paramBlockS op) 0).toNat = op.digestLen.toNat + 2 ^ 8 * op.keyLen.toNat
      + 2 ^ 16 * op.fanout.toNat + 2 ^ 24 * op.depth.toNat := by
  have hbytes : slice (paramBlockS op) (0 * (32 / 8)) (32 / 8)
      = [op.digestLen, op.keyLen, op.fanout, op.depth] := rfl
  rw [paramWord_toNat, hbytes]
  simp only [loadLe]
  omega

theorem paramBlockS_word1 (op : InitOperands) : paramWord 32 (paramBlockS op) 1 = op.leafLen :=
  ofNat_loadLe_storeLe (n := 4) (by decide) op.leafLen

theorem paramBlockS_word2 (op : InitOperands) :
    (paramWord 32 (paramBlockS op) 2).toNat = op.nodeOffset.toNat % 2 ^ 32 := by
  have hbytes : slice (paramBlockS op) (2 * (32 / 8)) (32 / 8) = storeLe op.nodeOffset.toNat 4 := rfl
  rw [paramWord_toNat, hbytes, loadLe_storeLe_mod]

/-- The upper two bytes of the 48-bit node offset share their word with two fields of one byte. -/
theorem paramBlockS_word3 {op : InitOperands} (hoff : op.nodeOffset.toNat < 2 ^ 48) :
    (paramWord 32 (paramBlockS op) 3).toNat = op.nodeOffset.toNat / 2 ^ 32
      + 2 ^ 16 * op.nodeDepth.toNat + 2 ^ 24 * op.innerLen.toNat := by
  have hbytes : slice (paramBlockS op) (3 * (32 / 8)) (32 / 8)
      = storeLe (op.nodeOffset.toNat / 256 / 256 / 256 / 256) 2 ++ [op.nodeDepth, op.innerLen] := rfl
  rw [paramWord_toNat, hbytes, storeLe_pair]
  simp only [List.cons_append, List.nil_append, loadLe, BitVec.toNat_ofNat]
  omega

theorem paramBlockS_salt {op : InitOperands} (hsalt : op.salt.length ≤ 8)
    {j : Nat} (hj : j < 2) :
    (paramWord 32 (paramBlockS op) (4 + j)).toNat = loadLe (slice op.salt (j * 4) 4) :=
  paramWord_padField (w := 32) (k := 4) rfl rfl hsalt hj

theorem paramBlockS_pers {op : InitOperands} (hsalt : op.salt.length ≤ 8)
    (hpers : op.pers.length ≤ 8) {j : Nat} (hj : j < 2) :
    (paramWord 32 (paramBlockS op) (6 + j)).toNat = loadLe (slice op.pers (j * 4) 4) :=
  paramWord_padField (w := 32) (k := 6) (List.append_nil _).symm
    (by simp [padField_length hsalt]) hpers hj

/-- Settles O16, word by word. -/
theorem parameterBlockLayoutS : Obligations.ParameterBlockLayoutS := fun op hsalt hpers hoff =>
  ⟨paramBlockS_length hsalt hpers, paramBlockS_word0 op, paramBlockS_word1 op, paramBlockS_word2 op,
    paramBlockS_word3 hoff,
    paramBlockS_salt hsalt (j := 0) (by decide), paramBlockS_salt hsalt (j := 1) (by decide),
    paramBlockS_pers hsalt hpers (j := 0) (by decide),
    paramBlockS_pers hsalt hpers (j := 1) (by decide)⟩

/-! ### INIT with a short salt or personalization (spec/42_parameter_block.md R155) -/

/-- The operands with salt and personalization filled up to the `SW` bytes of the variant. -/
def padOperands (v : Variant) (op : InitOperands) : InitOperands :=
  { op with salt := padField v.sw op.salt, pers := padField v.sw op.pers }

/-- The parameter block pads its two fields itself. -/
theorem initialRegs_padOperands (v : Variant) (op : InitOperands) (h : Vector (BitVec 64) 8) :
    initialRegs v (padOperands v op) h = initialRegs v op h := by
  cases v <;>
    simp only [initialRegs, paramBlockB, paramBlockS, padOperands, Variant.sw, padField_padField]

theorem configOk_padOperands {v : Variant} {op : InitOperands} (hsalt : op.salt.length ≤ v.sw)
    (hpers : op.pers.length ≤ v.sw) : configOk v (padOperands v op) = configOk v op := by
  rw [Bool.eq_iff_iff]
  simp only [configOk, Bool.and_eq_true, decide_eq_true_eq]
  simp [padOperands, padField_length, hsalt, hpers]

/-- INIT reads salt and personalization in its checks and in the parameter block, nowhere else. -/
theorem doInit_padOperands {v : Variant} {op : InitOperands} (hsalt : op.salt.length ≤ v.sw)
    (hpers : op.pers.length ≤ v.sw) (ln : Bool) (s : State) :
    doInit v ln (padOperands v op) s = doInit v ln op s := by
  rw [doInit, configOk_padOperands hsalt hpers, initialRegs_padOperands]
  rfl

/-- Settles O17, as the two variants of INIT. -/
theorem shortSaltIsZeroPadded : Obligations.ShortSaltIsZeroPadded := fun ln _ s =>
  ⟨fun hsalt hpers => doInit_padOperands (v := .b) hsalt hpers ln s,
    fun hsalt hpers => doInit_padOperands (v := .s) hsalt hpers ln s⟩

/-! ### The worked examples (spec/42_parameter_block.md R157) -/

/-- Settles O18: each printed block, word and chaining state of R157 is compared with what the kernel
evaluates. -/
theorem parameterBlockWorkedExamples : Obligations.ParameterBlockWorkedExamples := by
  unfold Obligations.ParameterBlockWorkedExamples
  refine ⟨⟨rfl, rfl, by decide, by decide⟩, ⟨rfl, rfl, by decide⟩,
    ⟨rfl, rfl, rfl, rfl, rfl, rfl, rfl, rfl, rfl, by decide⟩, rfl, by decide⟩

end Sys2Proof.Machine
end

section
/-! PROOFS of the statements about single commands (spec/43_sequencer_commands.md R170 to R178). -/
namespace Sys2Proof.Machine

/-! ### F, the parameter block and the digest, for either variant -/

/-- The lane that is the compression function of a variant (00_scope.md R6). -/
def laneOf : (v : Variant) → Lane v.w
  | .b => laneB
  | .s => laneS

/-- The parameter block of a variant (42_parameter_block.md R152, R153). -/
def paramBlock : Variant → InitOperands → List Byte
  | .b => paramBlockB
  | .s => paramBlockS

/-- The chaining state a new hash starts from (42_parameter_block.md R156). -/
def initialChain (v : Variant) (op : InitOperands) : Vector (BitVec v.w) 8 :=
  foldParams (laneOf v) (paramBlock v op)

theorem lowWords_initialRegs (v : Variant) (op : InitOperands) (h : Vector (BitVec 64) 8) :
    lowWords v.w (initialRegs v op h) = initialChain v op := by
  cases v <;> exact lowWords_setLowWords _ h (by decide)

theorem lowWords_compressRegs (v : Variant) (h : Vector (BitVec 64) 8) (buf : Vector Byte 128)
    (t : BitVec 128) (last ln : Bool) :
    lowWords v.w (compressRegs v h buf t last ln) =
      compress (laneOf v) (lowWords v.w h) (blockOf v buf) (counterOf v t) last ln := by
  cases v <;> exact lowWords_setLowWords _ h (by decide)

theorem digestOf_eq_serialize (v : Variant) (h : Vector (BitVec 64) 8) (n : Nat) :
    digestOf v h n = serialize (lowWords v.w h) n := by
  cases v <;> rfl

/-! ### The block after a write (spec/20_memory.md R52) -/

theorem blockOf_getElem {v : Variant} {buf : Vector Byte 128} {i : Nat}
    (h : i < (blockOf v buf).length) : (blockOf v buf)[i] = byteAt buf i := by
  rw [byteAt_eq_blockOf_getD (blockOf_length v buf ▸ h), List.getD_eq_getElem]

/-- Up to its end, a write appends to the bytes before it. -/
theorem blockOf_memWrite_take {v : Variant} {buf buf' : Vector Byte 128} {a : Nat}
    {bytes : List Byte} (h : memWrite v buf a bytes = some buf') :
    (blockOf v buf').take (a + bytes.length) = (blockOf v buf).take a ++ bytes := by
  obtain ⟨hle, hbuf⟩ := memWrite_eq_some _ _ _ _ _ h
  have hlen : ((blockOf v buf).take a).length = a := by simp [blockOf_length]; omega
  refine List.ext_getElem (by simp [blockOf_length]; omega) fun i hi hi' => ?_
  have hend : i < a + bytes.length := by simpa [hlen] using hi'
  rw [List.getElem_take, blockOf_getElem, hbuf]
  by_cases hia : i < a
  · rw [if_neg (by omega), List.getElem_append_left (by omega), List.getElem_take, blockOf_getElem]
  · rw [if_pos (by omega), List.getElem_append_right (by omega), List.getD_eq_getElem _ _ (by omega)]
    simp only [hlen]

/-- A write up to the end of the block keeps only the bytes before it. -/
theorem blockOf_memWrite_of_end {v : Variant} {buf buf' : Vector Byte 128} {a : Nat}
    {bytes : List Byte} (h : memWrite v buf a bytes = some buf') (hend : a + bytes.length = v.bb) :
    blockOf v buf' = (blockOf v buf).take a ++ bytes := by
  rw [← blockOf_memWrite_take h, hend, List.take_of_length_le (blockOf_length v buf').le]

/-! ### Errors (spec/43_sequencer_commands.md R170) -/

/-- A command that changes a register is answered OK (43_sequencer_commands.md R170). -/
theorem Effect.emit_or_ok {i : Instr} {s s' : State} (h : Effect s i s') :
    (∃ out, s' = s.emit out) ∨ ∃ tail, s'.rout = s.rout ++ 0#8 :: tail := by
  cases h with
  | respond i st opc payload => exact .inl ⟨_, rfl⟩
  | init => exact .inr ⟨_, rfl⟩
  | update data s1 opc payload hp ha =>
    obtain ⟨-, -, -, -, -, hrout⟩ := absorb_frame ha
    exact .inr ⟨_, congrArg (· ++ _) hrout⟩
  | final => exact .inr ⟨_, rfl⟩

/-- Settles O29, by the cases of what a step can do. -/
theorem errorsChangeNoRegister : Obligations.ErrorsChangeNoRegister := by
  intro s s' status tail h hrout hst
  obtain ⟨-, cin, out, rfl⟩ | ⟨i, rest, -, he⟩ := step_next_cases h
  · rfl
  obtain ⟨out, rfl⟩ | ⟨tail', hok⟩ := he.emit_or_ok
  · rfl
  · obtain ⟨rfl, -⟩ := List.cons.inj (List.append_cancel_left (hrout.symm.trans hok))
    exact absurd rfl hst

/-! ### INIT (spec/43_sequencer_commands.md R171 to R173) -/

/-- `t` is `s` with a new hash started in it, as far as the variant uses the registers, and its OK
response (43_sequencer_commands.md R173). -/
structure Started (v : Variant) (ln : Bool) (op : InitOperands) (s t : State) : Prop where
  phase : t.phase = .ready
  variant : t.variant = v
  diglen : t.diglen = op.digestLen
  lastnode : t.lastnode = ln
  chain : lowWords v.w t.h = initialChain v op
  counter : counterOf v t.t = 0
  block : blockOf v t.buf = initialBlock v op
  fill : t.fill = initialFill v op
  cin : t.cin = s.cin
  rout : t.rout = s.rout ++ response .ok opcInit []

theorem key_length_of_wellFormed {v : Variant} {ln : Bool} {op : InitOperands}
    (h : (initCommand v ln op).WellFormed) : op.key.length = op.keyLen.toNat := by
  have hop : op.wellFormed = true := by
    cases v with
    | b => exact h
    | s =>
      obtain ⟨hop, -⟩ := Bool.and_eq_true_iff.mp h
      exact hop
  obtain ⟨hkey, -⟩ := op.wellFormed_iff.mp hop
  exact hkey

theorem LegalConfig.key_le_bb {v : Variant} {op : InitOperands} (hl : LegalConfig v op)
    (hkey : op.key.length = op.keyLen.toNat) : op.key.length ≤ v.bb :=
  hkey.le.trans (hl.keyLen_le.trans (kmax_le_bb v))

theorem exec_initCommand_of_legal {v : Variant} {op : InitOperands} (hl : LegalConfig v op)
    (hkey : op.key.length = op.keyLen.toNat) (ln : Bool) (s : State) :
    ∃ t, exec (initCommand v ln op) s = .next t ∧ Started v ln op s t := by
  have hlen := initialBlock_length (hl.key_le_bb hkey)
  have hc := (configOk_iff_legalConfig v op).mpr hl
  rw [exec_initCommand]
  obtain ⟨hc', -⟩ | ⟨-, buf, hm, he⟩ | ⟨-, hm, -⟩ := doInit_cases v ln op s
  · cases hc.symm.trans hc'
  · refine ⟨_, he, rfl, rfl, rfl, rfl, lowWords_initialRegs v op s.h, ?_, ?_, rfl, rfl, rfl⟩
    · simp [counterOf_setCounter]
    · simpa using blockOf_memWrite_of_end hm (by simpa using hlen)
  · cases (memWrite_of_le v s.buf 0 _ (by simp [hlen])).symm.trans hm

theorem exec_initCommand_of_not_legal {v : Variant} {op : InitOperands} (hl : ¬ LegalConfig v op)
    (ln : Bool) (s : State) :
    exec (initCommand v ln op) s = .next (s.emit (response .configError opcInit [])) := by
  rw [exec_initCommand, doInit, if_neg (mt (configOk_iff_legalConfig v op).mp hl)]
  rfl

theorem initialBlock_eq {v : Variant} {op : InitOperands} (hkey : op.key.length = op.keyLen.toNat) :
    initialBlock v op =
      if op.keyLen = 0#8 then zeros v.bb else op.key ++ zeros (v.bb - op.keyLen.toNat) := by
  rw [initialBlock, hkey]

/-- Settles O32: in variant B the used parts of `h` and `t` are the whole registers. -/
theorem initBCreatesAHash : Obligations.InitBCreatesAHash := by
  intro ln op s hwf
  have hkey := key_length_of_wellFormed (v := .b) hwf
  refine ⟨fun hl => ?_, fun hl => exec_initCommand_of_not_legal hl ln s⟩
  obtain ⟨t, he, h⟩ := exec_initCommand_of_legal hl hkey ln s
  have hh : t.h = foldParams laneB (paramBlockB op) := (lowWords_full t.h).symm.trans h.chain
  have ht : t.t = 0#128 :=
    BitVec.eq_of_toNat_eq ((Nat.mod_eq_of_lt t.t.isLt).symm.trans h.counter)
  exact ⟨t, he, h.phase, h.variant, h.diglen, h.lastnode, hh, ht,
    h.block.trans (initialBlock_eq hkey), h.fill, h.cin, h.rout⟩

/-- Settles O33: the same on the parts variant S uses. -/
theorem initSCreatesAHash : Obligations.InitSCreatesAHash := by
  intro ln op s hwf
  have hkey := key_length_of_wellFormed (v := .s) hwf
  refine ⟨fun hl => ?_, fun hl => exec_initCommand_of_not_legal hl ln s⟩
  obtain ⟨t, he, h⟩ := exec_initCommand_of_legal hl hkey ln s
  exact ⟨t, he, h.phase, h.variant, h.diglen, h.lastnode, h.chain, h.counter,
    h.block.trans (initialBlock_eq hkey), h.fill, h.cin, h.rout⟩

/-- Settles O34: a successful INIT writes every part the variant uses. -/
theorem initForgetsThePreviousHash : Obligations.InitForgetsThePreviousHash := by
  intro v ln op s1 s2 t1 t2 hl hcin hrout h1 h2
  have h := doInit_sameOutcome_of_configOk ((configOk_iff_legalConfig v op).mpr hl) hcin hrout ln
  rw [exec_initCommand] at h1 h2
  rwa [h1, h2] at h

/-! ### UPDATE (spec/43_sequencer_commands.md R174, R175) -/

theorem exec_update_of_absorb {data : List Byte} {s s' : State} (hp : s.phase = .ready)
    (ha : absorb data s = some s') :
    exec (.update data) s = .next (s'.emit (response .ok opcUpdate [])) := by
  simp only [exec, execUpdate, if_pos hp, ha]
  rfl

theorem exec_update_of_not_ready {s : State} (hp : s.phase ≠ .ready) (data : List Byte) :
    exec (.update data) s = .next (s.emit (response .stateError opcUpdate [])) :=
  if_neg hp

theorem makeRoom_of_full {s : State} (h : s.fill.toNat = s.variant.bb) : s.makeRoom = s.startBlock :=
  if_pos h

theorem makeRoom_of_lt {s : State} (h : s.fill.toNat < s.variant.bb) : s.makeRoom = s :=
  if_neg h.ne

/-- With room in the block a byte is stored at index `fill`. -/
theorem absorbByte_of_lt {s : State} (h : s.fill.toNat < s.variant.bb) (b : Byte) :
    absorbByte b s = some (s.withBlock (putBytes s.buf s.fill.toNat [b]) (s.fill + 1#8)) := by
  rw [absorbByte_eq_map, makeRoom_of_lt h, memWrite_of_le _ _ _ _ h]
  rfl

/-- On a full block a byte starts a new one. -/
theorem absorbByte_of_full {s : State} (h : s.fill.toNat = s.variant.bb) (b : Byte) :
    absorbByte b s = some (s.startBlock.withBlock (putBytes s.buf 0 [b]) 1#8) := by
  have hlt := makeRoom_fill_lt h.le
  rw [makeRoom_of_full h] at hlt
  rw [absorbByte_eq_map, makeRoom_of_full h, memWrite_of_le _ _ _ _ hlt]
  rfl

theorem fill_succ_toNat {s : State} (h : s.fill.toNat < s.variant.bb) :
    (s.fill + 1#8).toNat = s.fill.toNat + 1 := by
  have := bb_le s.variant
  simp; omega

/-- Bytes that fit the rest of the block are one write of the buffer. -/
theorem absorb_of_fits {data : List Byte} {s : State}
    (h : s.fill.toNat + data.length ≤ s.variant.bb) :
    absorb data s = some (s.withBlock (putBytes s.buf s.fill.toNat data)
      (BitVec.ofNat 8 (s.fill.toNat + data.length))) := by
  induction data generalizing s with
  | nil => simp [absorb, putBytes, State.withBlock]
  | cons b bs ih =>
    simp only [List.length_cons] at h ⊢
    have hlt : s.fill.toNat < s.variant.bb := by omega
    have hfill := fill_succ_toNat hlt
    simp only [absorb, absorbByte_of_lt hlt]
    rw [ih (by simp only [State.withBlock_fill, hfill, State.withBlock_variant]; omega)]
    simp only [State.withBlock_fill, hfill, State.withBlock_buf, putBytes]
    simp only [State.withBlock, Nat.add_assoc, Nat.add_comm 1]

/-- Settles O36: the bytes are one write of the buffer, which is in range. -/
theorem updateWithinABlockOnlyStores : Obligations.UpdateWithinABlockOnlyStores := by
  intro data s hp hfit
  obtain ⟨-, hbytes⟩ := memWrite_eq_some _ _ _ _ _ (memWrite_of_le s.variant s.buf _ data hfit)
  exact ⟨_, exec_update_of_absorb hp (absorb_of_fits hfit), rfl, hbytes⟩

/-- Settles O38: there is no byte to store. -/
theorem emptyUpdateChangesNoRegister : Obligations.EmptyUpdateChangesNoRegister :=
  fun _ hp => exec_update_of_absorb hp rfl

/-- Settles O35: the staged bytes fill the empty block exactly. -/
theorem keyBlockIsAFirstUpdate : Obligations.KeyBlockIsAFirstUpdate := by
  intro v ln op s t1 buf hwf hl hk h1
  have hkey := key_length_of_wellFormed hwf
  obtain ⟨t, he, h⟩ := exec_initCommand_of_legal hl hkey ln s
  cases he.symm.trans h1
  have hblock : initialBlock v op = op.key ++ zeros (v.bb - op.keyLen.toNat) := by
    rw [initialBlock_eq hkey, if_neg hk]
  have hlen : (initialBlock v op).length = v.bb := initialBlock_length (hl.key_le_bb hkey)
  rw [← hblock]
  have hfit : 0 + (initialBlock v op).length ≤ v.bb := by omega
  have hb := blockOf_memWrite_of_end (memWrite_of_le v buf 0 _ hfit) (by omega)
  refine ⟨_, exec_update_of_absorb h.phase (absorb_of_fits (h.variant ▸ hfit)), ?_⟩
  refine ⟨rfl, rfl, rfl, fun _ => rfl, fun _ => rfl, fun _ => rfl, fun _ => rfl, fun _ => rfl,
    fun _ => ?_, fun _ => ?_⟩
  · exact h.variant ▸ hb.trans h.block.symm
  · simp [h.fill, initialFill, hk, hlen]

/-- F on a full block, for either variant. -/
theorem startBlock_chain (s : State) :
    lowWords s.variant.w s.startBlock.h = compress (laneOf s.variant) (lowWords s.variant.w s.h)
      (blockOf s.variant s.buf) (counterOf s.variant s.startBlock.t) false false :=
  lowWords_compressRegs ..

/-- Settles O37: the byte is stored in the block that F has just read. -/
theorem updateOnAFullBlockCompresses : Obligations.UpdateOnAFullBlockCompresses := by
  intro b s hp hfull
  have ha : absorb [b] s = some (s.startBlock.withBlock (putBytes s.buf 0 [b]) 1#8) := by
    simp [absorb, absorbByte_of_full hfull]
  have hbb : 0 + [b].length ≤ s.variant.bb := by cases hv : s.variant <;> simp [Variant.bb]
  obtain ⟨-, hbytes⟩ := memWrite_eq_some _ _ _ _ _ (memWrite_of_le s.variant s.buf 0 [b] hbb)
  have hchain := startBlock_chain s
  exact ⟨_, exec_update_of_absorb hp ha, rfl, counterOf_advanceCounter ..,
    fun hv => by rw [hv] at hchain; exact hchain, fun hv => by rw [hv] at hchain; exact hchain,
    hbytes 0, fun i hi => (hbytes i).trans (if_neg (by simp; omega))⟩

/-! ### FINAL (spec/43_sequencer_commands.md R176, R177) -/

theorem exec_final_of_not_ready {s : State} (hp : s.phase ≠ .ready) :
    exec .final s = .next (s.emit (response .stateError opcFinal [])) :=
  if_neg hp

/-- Everything a FINAL that completes in READY does, for either variant. -/
theorem exec_final_of_ready {s : State} (hp : s.phase = .ready)
    (hfill : s.fill.toNat ≤ s.variant.bb) :
    ∃ t, exec .final s = .next t ∧
      t = { s with phase := .finalized, h := t.h, t := t.t, buf := t.buf,
                   rout := s.rout ++ response .ok opcFinal
                     (serialize (lowWords s.variant.w t.h) s.diglen.toNat) } ∧
      counterOf s.variant t.t = (counterOf s.variant s.t + s.fill.toNat) % 2 ^ s.variant.cw ∧
      blockOf s.variant t.buf =
        (blockOf s.variant s.buf).take s.fill.toNat ++ zeros (s.variant.bb - s.fill.toNat) ∧
      lowWords s.variant.w t.h = compress (laneOf s.variant) (lowWords s.variant.w s.h)
        (blockOf s.variant t.buf) (counterOf s.variant t.t) true s.lastnode := by
  obtain ⟨hp', -⟩ | ⟨-, buf, t, h, hm, rfl, rfl, he⟩ | ⟨-, hlt, -⟩ := execFinal_cases s
  · exact absurd hp hp'
  · rw [digestOf_eq_serialize] at he
    exact ⟨_, he, rfl, counterOf_advanceCounter .., blockOf_memWrite_of_end hm (by simp; omega),
      lowWords_compressRegs ..⟩
  · omega

theorem serialize_length_of_le {v : Variant} {n : Nat} (hn : n ≤ v.dmax) (h : Vector (BitVec 64) 8) :
    (serialize (lowWords v.w h) n).length = n := by
  rw [← digestOf_eq_serialize, digestOf_length, ← dmax_eq, Nat.min_eq_left hn]

theorem response_ok_of_length {payload : List Byte} {n : Byte} (h : payload.length = n.toNat)
    (opc : Byte) : response .ok opc payload = [0x00#8, opc, n, 0x00#8] ++ payload := by
  have hdiv : n.toNat / 256 = 0 := Nat.div_eq_of_lt n.isLt
  simp [response, storeLe_pair, h, hdiv, statusCode]

/-- Settles O41, as the two variants of what FINAL does. -/
theorem finalProducesTheDigest : Obligations.FinalProducesTheDigest := by
  refine ⟨fun s hp => exec_final_of_not_ready hp, fun s hi hp => ?_⟩
  have hne : s.phase ≠ .idle := by simp [hp]
  obtain ⟨-, hmax⟩ := hi.diglenRange hne
  obtain ⟨t, he, ht, hcount, hblock, hchain⟩ := exec_final_of_ready hp (hi.fillRange hne)
  have hlen := serialize_length_of_le hmax t.h
  rw [response_ok_of_length hlen, ← List.append_assoc] at ht
  exact ⟨t, _, he, ht, hcount, hblock, hlen,
    fun hv => by rw [hv] at hchain; exact ⟨hchain, hv ▸ rfl⟩,
    fun hv => by rw [hv] at hchain; exact ⟨hchain, hv ▸ rfl⟩⟩

/-! ### DLEN (spec/43_sequencer_commands.md R178) -/

theorem exec_dlen_of_not_idle {s : State} (hp : s.phase ≠ .idle) :
    exec .dlen s =
      .next { s with rout := s.rout ++ [0x00#8, 0x04#8, 0x01#8, 0x00#8, s.diglen] } := by
  have hr : response .ok opcDlen [s.diglen] = [0x00#8, 0x04#8, 0x01#8, 0x00#8, s.diglen] :=
    response_ok_of_length (n := 1#8) rfl opcDlen
  exact (if_neg hp).trans (by rw [respondOk_eq, hr])

/-- Settles O43, as the two cases of the phase. -/
theorem dlenReportsTheDigestLength : Obligations.DlenReportsTheDigestLength :=
  fun _ => ⟨exec_dlen_of_not_idle, fun hp => if_pos hp⟩

/-! ### Sequences of commands -/

theorem execAll_cons_of_next {i : Instr} {s s' : State} (h : exec i s = .next s') (is : List Instr) :
    execAll (i :: is) s = execAll is s' := by
  simp only [execAll, h]

theorem exec_of_finalized {i : Instr} (hi : i = .final ∨ ∃ data, i = .update data) {t : State}
    (hp : t.phase = .finalized) :
    exec i t = .next (t.emit (response .stateError (packetOf i).opc [])) := by
  obtain rfl | ⟨data, rfl⟩ := hi
  · exact exec_final_of_not_ready (by simp [hp])
  · exact exec_update_of_not_ready (by simp [hp]) data

/-- Every UPDATE and FINAL leaves FINALIZED as it was, so the next one meets it again. -/
theorem execAll_of_finalized {is : List Instr}
    (his : ∀ i ∈ is, i = .final ∨ ∃ data, i = .update data) {t : State}
    (hp : t.phase = .finalized) :
    execAll is t = .next
      (t.emit (is.map fun i => response .stateError (packetOf i).opc []).flatten) := by
  induction is generalizing t with
  | nil => simp [execAll, State.emit]
  | cons i is ih =>
    obtain ⟨hi, his⟩ := List.forall_mem_cons.mp his
    rw [execAll_cons_of_next (exec_of_finalized hi hp), ih his (t := t.emit _) hp]
    simp [State.emit]

/-- Settles O42: outside READY every UPDATE and FINAL is the same error. -/
theorem finalIsTerminal : Obligations.FinalIsTerminal := by
  refine ⟨fun s t hp h => ?_, fun t hp => ⟨?_, ?_, ?_, ?_⟩⟩
  · obtain ⟨hp', -⟩ | ⟨-, buf, c, g, -, -, -, he⟩ | ⟨-, -, he⟩ := execFinal_cases s
    · exact absurd hp hp'
    · cases he.symm.trans h
      exact ⟨rfl, rfl⟩
    · cases he.symm.trans h
  · exact exec_update_of_not_ready (by simp [hp])
  · exact exec_final_of_not_ready (by simp [hp])
  · exact exec_dlen_of_not_idle (by simp [hp])
  · exact fun is his => execAll_of_finalized his hp

end Sys2Proof.Machine
end

section
/-! PROOFS of the statements about whole payloads and whole messages (spec/43_sequencer_commands.md R174,
R175, R179): the loop of UPDATE, and the hash a command sequence computes. -/
namespace Sys2Proof.Machine

/-! ### Splitting a payload (spec/43_sequencer_commands.md R175 item 2) -/

theorem absorb_append (a b : List Byte) (s : State) :
    absorb (a ++ b) s = (absorb a s).bind (absorb b) := by
  induction a generalizing s with
  | nil => rfl
  | cons x a ih =>
    simp only [List.cons_append, absorb]
    cases absorbByte x s with
    | none => rfl
    | some s1 => exact ih s1

/-- Settles O40: outside READY every part is the same error; in READY the loop over `a || b` is the
loop over `a` and then the one over `b`, which a response in between does not disturb. -/
theorem updateMaySplitAnywhere : Obligations.UpdateMaySplitAnywhere := by
  intro a b s s1 s2 ha hb
  obtain ⟨hp, he⟩ | ⟨hp, u, hu, he⟩ | ⟨-, -, he⟩ := execUpdate_cases a s <;>
    cases he.symm.trans ha
  · cases (exec_update_of_not_ready (s := s.emit _) hp b).symm.trans hb
    exact ⟨_, exec_update_of_not_ready hp (a ++ b), rfl⟩
  · obtain ⟨hpu, -, -, -, -, hrout⟩ := absorb_frame hu
    obtain ⟨hp', -⟩ | ⟨-, x, hx, he'⟩ | ⟨-, -, he'⟩ :=
      execUpdate_cases b (u.emit (response .ok opcUpdate []))
    · exact absurd (hpu.trans hp) hp'
    · cases he'.symm.trans hb
      have hab : absorb (a ++ b) s = some (x.withStreams u.cin u.rout) := by
        rw [absorb_append, hu]
        exact absorb_withStreams hx u.cin u.rout
      obtain ⟨-, -, -, -, hcin, -⟩ := absorb_frame hx
      refine ⟨_, exec_update_of_absorb hp hab, ?_⟩
      simp only [State.emit, State.withStreams, hcin]
    · cases he'.symm.trans hb

/-! ### The compressions of an UPDATE (spec/43_sequencer_commands.md R175 item 3) -/

theorem bb_pos (v : Variant) : 0 < v.bb := by cases v <;> decide

theorem counterOf_lt (v : Variant) (t : BitVec 128) : counterOf v t < 2 ^ v.cw :=
  Nat.mod_lt _ (Nat.two_pow_pos _)

/-- The number of compressions of an UPDATE of `n` bytes that finds `fill` bytes in the buffer
(90_conflicts.md C15). -/
def passes (v : Variant) (fill n : Nat) : Nat := (fill + n - 1) / v.bb

theorem passes_zero {v : Variant} {fill : Nat} (h : fill ≤ v.bb) : passes v fill 0 = 0 :=
  Nat.div_eq_of_lt (by have := bb_pos v; omega)

theorem passes_succ (v : Variant) (fill n : Nat) : passes v fill (n + 1) = passes v (fill + 1) n := by
  simp only [passes, Nat.add_right_comm, Nat.add_assoc]

theorem passes_succ_of_full (v : Variant) (n : Nat) : passes v v.bb (n + 1) = passes v 1 n + 1 := by
  have h1 : v.bb + (n + 1) - 1 = n + v.bb := by omega
  have h2 : 1 + n - 1 = n := by omega
  rw [passes, passes, h1, h2, Nat.add_div_right _ (bb_pos v)]

/-- What absorbing `n` bytes does to the counter, the fill length and the chaining state. -/
structure Counted (s t : State) (n : Nat) : Prop where
  counter : counterOf s.variant t.t =
    (counterOf s.variant s.t + s.variant.bb * passes s.variant s.fill.toNat n) % 2 ^ s.variant.cw
  fill : t.fill.toNat + s.variant.bb * passes s.variant s.fill.toNat n = s.fill.toNat + n
  chain : passes s.variant s.fill.toNat n = 0 → t.h = s.h

theorem counted_zero {s : State} (h : s.fill.toNat ≤ s.variant.bb) : Counted s s 0 := by
  have hz := passes_zero h
  refine ⟨?_, by simp [hz], fun _ => rfl⟩
  rw [hz, Nat.mul_zero, Nat.add_zero, Nat.mod_eq_of_lt (counterOf_lt ..)]

theorem Counted.cons_of_lt {s t : State} {buf : Vector Byte 128} {n : Nat}
    (hlt : s.fill.toNat < s.variant.bb) (h : Counted (s.withBlock buf (s.fill + 1#8)) t n) :
    Counted s t (n + 1) := by
  obtain ⟨hcount, hfill, hchain⟩ := h
  simp only [State.withBlock_variant, State.withBlock_t, State.withBlock_fill, State.withBlock_h,
    fill_succ_toNat hlt, ← passes_succ] at hcount hfill hchain
  exact ⟨hcount, by omega, hchain⟩

theorem Counted.cons_of_full {s t : State} {buf : Vector Byte 128} {n : Nat}
    (hfull : s.fill.toNat = s.variant.bb) (h : Counted (s.startBlock.withBlock buf 1#8) t n) :
    Counted s t (n + 1) := by
  obtain ⟨hcount, hfill, -⟩ := h
  have hone : (1#8).toNat = 1 := rfl
  simp only [State.withBlock_variant, State.withBlock_t, State.withBlock_fill, startBlock_variant,
    startBlock_t, counterOf_advanceCounter, hone, Nat.mod_add_mod] at hcount hfill
  have hp := passes_succ_of_full s.variant n
  refine ⟨?_, ?_, fun h0 => ?_⟩
  · rw [hcount, hfull, hp, Nat.mul_succ, Nat.add_assoc, Nat.add_comm s.variant.bb]
  · rw [hfull, hp, Nat.mul_succ]; omega
  · rw [hfull, hp] at h0; omega

theorem absorb_counted {data : List Byte} {s : State} (h : s.fill.toNat ≤ s.variant.bb) :
    ∃ t, absorb data s = some t ∧ Counted s t data.length := by
  induction data generalizing s with
  | nil => exact ⟨s, rfl, counted_zero h⟩
  | cons b bs ih =>
    obtain hfull | hlt := h.eq_or_lt
    · obtain ⟨t, ha, hc⟩ := ih (s := s.startBlock.withBlock (putBytes s.buf 0 [b]) 1#8) (bb_pos _)
      exact ⟨t, by simpa only [absorb, absorbByte_of_full hfull] using ha, hc.cons_of_full hfull⟩
    · obtain ⟨t, ha, hc⟩ :=
        ih (s := s.withBlock (putBytes s.buf s.fill.toNat [b]) (s.fill + 1#8))
          ((fill_succ_toNat hlt).trans_le hlt)
      exact ⟨t, by simpa only [absorb, absorbByte_of_lt hlt] using ha, hc.cons_of_lt hlt⟩

/-- Settles O39, by induction on the payload. -/
theorem updateCountsItsCompressions : Obligations.UpdateCountsItsCompressions := by
  intro data s hi hp
  obtain ⟨t, ha, hcount, hfill, hchain⟩ :=
    absorb_counted (data := data) (hi.fillRange (by simp [hp]))
  obtain ⟨hphase, hv, hd, hl, hcin, hrout⟩ := absorb_frame ha
  refine ⟨_, exec_update_of_absorb hp ha, ?_, hcount, hfill, hchain⟩
  simp only [State.emit, ← hphase, ← hv, ← hd, ← hl, ← hcin, ← hrout]
  rfl

/-! ### The blocks of the hash input (spec/43_sequencer_commands.md R179) -/

theorem blake2_eq_hashWith (v : Variant) (ln : Bool) (op : InitOperands) (M : List Byte) :
    blake2 v ln op M =
      hashWith (laneOf v) v.bb (initialChain v op) ln op.digestLen.toNat (hashInput v.bb op M) := by
  cases v <;> rfl

theorem hashInput_eq_append (bb : Nat) (op : InitOperands) (M : List Byte) :
    hashInput bb op M = hashInput bb op [] ++ M := by
  unfold hashInput
  split <;> simp

/-- A block that `X` reaches into and does not go beyond. -/
theorem hashBlock_of_last {bb c : Nat} {X : List Byte} (h : X.length ≤ c * bb + bb) :
    hashBlock bb X c = X.drop (c * bb) ++ zeros (bb - (X.length - c * bb)) := by
  have hs : slice X (c * bb) bb = X.drop (c * bb) :=
    List.take_of_length_le (by simp; omega)
  rw [hashBlock, hs, List.length_drop]

/-- The blocks that are full do not change when the message goes on. -/
theorem hashChain_append {w : Nat} (L : Lane w) {bb : Nat} (h0 : Vector (BitVec w) 8)
    {X : List Byte} (Y : List Byte) {c : Nat} (h : c * bb ≤ X.length) :
    hashChain L bb h0 (X ++ Y) c = hashChain L bb h0 X c := by
  induction c with
  | zero => rfl
  | succ c ih =>
    rw [Nat.succ_mul] at h
    simp only [hashChain, hashBlock, slice_append_of_le h, ih (by omega)]

/-- With `c` full blocks behind it, and the last block begun unless there is none, the input has
`c + 1` blocks. -/
theorem hashBlocks_eq {bb c fill : Nat} {X : List Byte} (hX : c * bb + fill = X.length)
    (hle : fill ≤ bb) (hbb : 0 < bb) (hlast : c = 0 ∨ 0 < fill) : hashBlocks bb X = c + 1 := by
  unfold hashBlocks
  obtain rfl | hpos := Nat.eq_zero_or_pos fill
  · obtain rfl : c = 0 := by simpa using hlast
    have : (X.length + bb - 1) / bb = 0 := Nat.div_eq_of_lt (by omega)
    omega
  · have hn : X.length + bb - 1 = fill - 1 + (c + 1) * bb := by rw [Nat.succ_mul]; omega
    rw [hn, Nat.add_mul_div_right _ _ hbb, Nat.div_eq_of_lt (by omega)]
    omega

/-- F reads its counter modulo `2^(2w)` (41_compression.md R127). -/
theorem compress_mod {w : Nat} (L : Lane w) (h : Vector (BitVec w) 8) (block : List Byte) (t : Nat)
    (last ln : Bool) :
    compress L h block (t % 2 ^ (2 * w)) last ln = compress L h block t last ln := by
  have hpow : 2 ^ (2 * w) = 2 ^ w * 2 ^ w := by rw [Nat.two_mul, Nat.pow_add]
  have hlo : counterLo w (t % 2 ^ (2 * w)) = counterLo w t := by
    rw [counterLo, counterLo, hpow, Nat.mod_mul_right_mod]
  have hhi : counterHi w (t % 2 ^ (2 * w)) = counterHi w t := by
    rw [counterHi, counterHi, hpow, Nat.mod_mul_right_div_self, Nat.mod_mod]
  simp only [compress, workingVector, hlo, hhi]

theorem compress_mod_cw (v : Variant) (h : Vector (BitVec v.w) 8) (block : List Byte) (t : Nat)
    (last ln : Bool) :
    compress (laneOf v) h block (t % 2 ^ v.cw) last ln = compress (laneOf v) h block t last ln := by
  have hcw : v.cw = 2 * v.w := by cases v <;> rfl
  rw [hcw, compress_mod]

/-! ### The hash in progress (spec/43_sequencer_commands.md R179) -/

/-- `s` is a hash in progress that has taken in `X`: `c` blocks of `X` are compressed, and the rest of
`X` stands in the buffer. -/
structure Hashing (v : Variant) (ln : Bool) (op : InitOperands) (X : List Byte) (c : Nat)
    (s : State) : Prop where
  phase : s.phase = .ready
  variant : s.variant = v
  diglen : s.diglen = op.digestLen
  lastnode : s.lastnode = ln
  chain : lowWords v.w s.h = hashChain (laneOf v) v.bb (initialChain v op) X c
  counter : counterOf v s.t = c * v.bb % 2 ^ v.cw
  length : c * v.bb + s.fill.toNat = X.length
  fillRange : s.fill.toNat ≤ v.bb
  rest : (blockOf v s.buf).take s.fill.toNat = X.drop (c * v.bb)

section Hashing

variable {v : Variant} {ln : Bool} {op : InitOperands} {X : List Byte} {c : Nat} {s : State}

/-- Before the message the input is what INIT stages: the key block, if there is one. -/
theorem hashInput_nil (hl : LegalConfig v op) (hkey : op.key.length = op.keyLen.toNat) :
    hashInput v.bb op [] = (initialBlock v op).take (initialFill v op).toNat := by
  have hk0 : op.keyLen.toNat = 0 ↔ op.keyLen = 0#8 := BitVec.toNat_inj (y := 0#8)
  by_cases hk : op.keyLen = 0#8
  · simp [hashInput, initialFill, hk]
  · have hfill : (initialFill v op).toNat = v.bb := by
      simpa [initialFill, hk] using (bb_le v).trans_lt (by decide)
    rw [hfill, List.take_of_length_le (initialBlock_length (hl.key_le_bb hkey)).le]
    simp [hashInput, initialBlock, hk0, hk, hkey]

theorem Started.hashing {s0 : State} (h : Started v ln op s0 s) (hl : LegalConfig v op)
    (hkey : op.key.length = op.keyLen.toNat) : Hashing v ln op (hashInput v.bb op []) 0 s := by
  have hinput := hashInput_nil hl hkey
  have hfill := h.fill ▸ initialFill_le v op
  rw [← h.fill, ← h.block] at hinput
  refine ⟨h.phase, h.variant, h.diglen, h.lastnode, h.chain, by simp [h.counter], ?_, hfill,
    by rw [← hinput, Nat.zero_mul, List.drop_zero]⟩
  rw [hinput, List.length_take, blockOf_length, Nat.min_eq_left hfill, Nat.zero_mul, Nat.zero_add]

/-- A full buffer is a block of the input, so its compression is the next link of the chain. -/
theorem Hashing.startBlock (h : Hashing v ln op X c s) (hfull : s.fill.toNat = v.bb) :
    Hashing v ln op X (c + 1) s.startBlock := by
  obtain rfl := h.variant
  have hlen : (c + 1) * s.variant.bb = X.length := by rw [Nat.succ_mul, ← h.length, hfull]
  have hblock : blockOf s.variant s.buf = hashBlock s.variant.bb X c := by
    have hrest := h.rest
    rw [hfull, List.take_of_length_le (blockOf_length ..).le] at hrest
    rw [hashBlock_of_last (by rw [← hlen, Nat.succ_mul]), hrest, ← hlen, Nat.succ_mul]
    simp
  have hcount : counterOf s.variant s.startBlock.t = (c + 1) * s.variant.bb % 2 ^ s.variant.cw := by
    rw [startBlock_t, counterOf_advanceCounter, h.counter, Nat.mod_add_mod, Nat.succ_mul]
  refine ⟨h.phase, rfl, h.diglen, h.lastnode, ?_, hcount, hlen, Nat.zero_le _, ?_⟩
  · rw [startBlock_chain, hcount, compress_mod_cw, hblock, h.chain]
    rfl
  · simp [hlen]

theorem Hashing.makeRoom (h : Hashing v ln op X c s) : ∃ c', Hashing v ln op X c' s.makeRoom := by
  have hrange := h.fillRange
  rw [← h.variant] at hrange
  obtain hfull | hlt := hrange.eq_or_lt
  · exact ⟨c + 1, (makeRoom_of_full hfull).symm ▸ h.startBlock (h.variant ▸ hfull)⟩
  · exact ⟨c, (makeRoom_of_lt hlt).symm ▸ h⟩

theorem Hashing.store (h : Hashing v ln op X c s) {buf : Vector Byte 128} {b : Byte}
    (hm : memWrite s.variant s.buf s.fill.toNat [b] = some buf) :
    Hashing v ln op (X ++ [b]) c (s.withBlock buf (s.fill + 1#8)) := by
  obtain rfl := h.variant
  obtain ⟨hle, -⟩ := memWrite_eq_some _ _ _ _ _ hm
  have hfill := fill_succ_toNat hle
  have hlen := h.length
  refine ⟨h.phase, rfl, h.diglen, h.lastnode, ?_, h.counter, ?_, ?_, ?_⟩
  · rw [hashChain_append _ _ _ (by omega)]
    exact h.chain
  · simp only [State.withBlock_fill, hfill, List.length_append, List.length_singleton]
    omega
  · exact hfill.trans_le hle
  · have htake := blockOf_memWrite_take hm
    rw [h.rest, ← List.drop_append_of_le_length (by omega)] at htake
    exact hfill ▸ htake

/-- A hash in progress that has compressed every block it can tell is not the last. -/
def Absorbed (v : Variant) (ln : Bool) (op : InitOperands) (X : List Byte) (s : State) : Prop :=
  ∃ c, Hashing v ln op X c s ∧ (c = 0 ∨ 0 < s.fill.toNat)

theorem Absorbed.emit (h : Absorbed v ln op X s) (out : List Byte) :
    Absorbed v ln op X (s.emit out) := by
  obtain ⟨c, ⟨hp, hv, hd, hl, hc, ht, hn, hf, hr⟩, hlast⟩ := h
  exact ⟨c, ⟨hp, hv, hd, hl, hc, ht, hn, hf, hr⟩, hlast⟩

theorem Absorbed.absorbByte (h : Absorbed v ln op X s) (b : Byte) :
    ∃ s', absorbByte b s = some s' ∧ Absorbed v ln op (X ++ [b]) s' := by
  obtain ⟨c, hs, -⟩ := h
  obtain ⟨c', h'⟩ := hs.makeRoom
  have hrange := hs.fillRange
  rw [← hs.variant] at hrange
  have hlt := makeRoom_fill_lt hrange
  rw [absorbByte_eq_map, memWrite_of_le _ _ _ _ hlt]
  refine ⟨_, rfl, c', h'.store (memWrite_of_le _ _ _ _ hlt), .inr ?_⟩
  exact (Nat.succ_pos _).trans_eq (fill_succ_toNat hlt).symm

theorem Absorbed.absorb (h : Absorbed v ln op X s) (data : List Byte) :
    ∃ s', absorb data s = some s' ∧ Absorbed v ln op (X ++ data) s' := by
  induction data generalizing X s with
  | nil => exact ⟨s, rfl, by simpa using h⟩
  | cons b bs ih =>
    obtain ⟨s1, h1, hs1⟩ := h.absorbByte b
    obtain ⟨s', h', hs'⟩ := ih hs1
    exact ⟨s', by simpa only [Machine.absorb, h1] using h', by simpa using hs'⟩

theorem Absorbed.execAll_updates (h : Absorbed v ln op X s) (chunks : List (List Byte)) :
    ∃ t, (∀ is, execAll (chunks.map Instr.update ++ is) s = execAll is t) ∧
      Absorbed v ln op (X ++ chunks.flatten) t ∧
      t.rout = s.rout ++ (chunks.map fun _ => response .ok opcUpdate []).flatten := by
  induction chunks generalizing X s with
  | nil => exact ⟨s, fun _ => rfl, by simpa using h, by simp⟩
  | cons data chunks ih =>
    obtain ⟨s1, ha, h1⟩ := h.absorb data
    obtain ⟨-, -, -, -, -, hrout⟩ := absorb_frame ha
    obtain ⟨t, ht, habs, htr⟩ := ih (h1.emit (response .ok opcUpdate []))
    have hp : s.phase = .ready := by
      obtain ⟨c, hs, -⟩ := h
      exact hs.phase
    refine ⟨t, fun is => ?_, by simpa using habs, by simpa [hrout] using htr⟩
    exact (execAll_cons_of_next (exec_update_of_absorb hp ha) _).trans (ht is)

/-- FINAL compresses the last block, padded, with the length of the whole input. -/
theorem Absorbed.exec_final (h : Absorbed v ln op X s) (hl : LegalConfig v op) :
    ∃ t, exec .final s = .next t ∧ t.phase = .finalized ∧
      t.rout = s.rout ++ ([0x00#8, 0x03#8, op.digestLen, 0x00#8] ++
        hashWith (laneOf v) v.bb (initialChain v op) ln op.digestLen.toNat X) := by
  obtain ⟨c, hs, hlast⟩ := h
  obtain rfl := hs.variant
  have hlen := hs.length
  obtain ⟨-, hmax⟩ := hl.digestLen_range
  obtain ⟨t, he, ht, hcount, hblock, hchain⟩ := exec_final_of_ready hs.phase hs.fillRange
  have hpadded : blockOf s.variant t.buf = hashBlock s.variant.bb X c := by
    have hfill : X.length - c * s.variant.bb = s.fill.toNat := by omega
    have hrange := hs.fillRange
    rw [hblock, hs.rest, hashBlock_of_last (by omega), hfill]
  have hdigest : lowWords s.variant.w t.h = compress (laneOf s.variant)
      (hashChain (laneOf s.variant) s.variant.bb (initialChain s.variant op) X c)
      (hashBlock s.variant.bb X c) X.length true ln := by
    rw [hchain, hs.chain, hpadded, hcount, compress_mod_cw, hs.counter, hs.lastnode,
      ← compress_mod_cw, Nat.mod_add_mod, hlen, compress_mod_cw]
  have hout : hashWith (laneOf s.variant) s.variant.bb (initialChain s.variant op) ln
      op.digestLen.toNat X = serialize (lowWords s.variant.w t.h) op.digestLen.toNat := by
    rw [hashWith, hashBlocks_eq hlen hs.fillRange (bb_pos _) hlast, Nat.add_sub_cancel, hdigest]
  refine ⟨t, he, congrArg State.phase ht, ?_⟩
  rw [hout, ← response_ok_of_length (serialize_length_of_le hmax t.h), ← hs.diglen]
  exact congrArg State.rout ht

end Hashing

/-- Settles O45: INIT starts the hash, each UPDATE takes its bytes in, FINAL ends it. -/
theorem commandSequenceComputesBlake2 : Obligations.CommandSequenceComputesBlake2 := by
  intro v ln op chunks s hwf hl
  have hkey := key_length_of_wellFormed hwf
  obtain ⟨s1, h1, hstart⟩ := exec_initCommand_of_legal hl hkey ln s
  have habs : Absorbed v ln op (hashInput v.bb op []) s1 := ⟨0, hstart.hashing hl hkey, .inl rfl⟩
  obtain ⟨s2, h2, habs2, hr2⟩ := habs.execAll_updates chunks
  obtain ⟨t, h3, hp, hr3⟩ := habs2.exec_final hl
  refine ⟨t, ?_, hp, ?_⟩
  · rw [execAll_cons_of_next h1, h2, execAll_cons_of_next h3]
    rfl
  · rw [← hashInput_eq_append, ← blake2_eq_hashWith] at hr3
    rw [hr3, hr2, hstart.rout]
    simp only [List.append_assoc]
    rfl

end Sys2Proof.Machine
end

section
/-! PROOFS of the statement about the digest serializer (spec/44_digest_serializer.md R200): where each
byte of the digest stands in the words of the hash. -/
namespace Sys2Proof.Machine

/-- Pieces of one length laid end to end: element `k` is element `k mod m` of piece `k div m`. -/
theorem getD_flatMap_of_length_eq {α β : Type} {f : α → List β} {m : Nat} (hm : 0 < m)
    (hf : ∀ a, (f a).length = m) (d : β) (l : List α) (k : Nat) (hk : k / m < l.length) :
    (l.flatMap f).getD k d = (f l[k / m]).getD (k % m) d := by
  induction l generalizing k with
  | nil => simp at hk
  | cons a l ih =>
    rw [List.flatMap_cons]
    obtain hlt | hge := Nat.lt_or_ge k m
    · rw [List.getD_append _ _ _ _ ((hf a).symm ▸ hlt)]
      simp [Nat.div_eq_of_lt hlt, Nat.mod_eq_of_lt hlt]
    · have hdiv : k / m = (k - m) / m + 1 := Nat.div_eq_sub_div hm hge
      have hrest := ih (k - m) (by rw [List.length_cons] at hk; omega)
      rw [List.getD_append_right _ _ _ _ ((hf a).symm ▸ hge), hf, hrest, ← Nat.mod_eq_sub_mod hge]
      simp [hdiv]

/-- Byte `k` that `store_le` writes (40_wordops.md R105). -/
theorem storeLe_getD_toNat {x n : Nat} (hx : x < 2 ^ (8 * n)) (k : Nat) :
    ((storeLe x n).getD k 0#8).toNat = x / 2 ^ (8 * k) % 256 := by
  rw [← byte_of_loadLe, loadLe_storeLe hx]

theorem serialize_length {w n : Nat} (h : Vector (BitVec w) 8) (hn : n ≤ 8 * (w / 8)) :
    (serialize h n).length = n := by
  simp [serialize, List.length_flatMap]
  omega

/-- Cutting to `n` bytes keeps byte `k`, and every word gives `w / 8` of them. -/
theorem serialize_getD_toNat {w n k : Nat} (h : Vector (BitVec w) 8) (hw : 8 * (w / 8) = w)
    (hpos : 0 < w / 8) (hkn : k < n) (hk : k / (w / 8) < 8) :
    ((serialize h n).getD k 0#8).toNat
      = h[k / (w / 8)].toNat / 2 ^ (8 * (k % (w / 8))) % 256 := by
  have hfit : h[k / (w / 8)].toNat < 2 ^ (8 * (w / 8)) := hw.symm ▸ h[k / (w / 8)].isLt
  have htake : (serialize h n).getD k 0#8
      = (h.toList.flatMap fun x => storeLe x.toNat (w / 8)).getD k 0#8 := by
    simp [serialize, List.getD, List.getElem?_take_of_lt hkn]
  rw [htake, getD_flatMap_of_length_eq hpos (fun _ => storeLe_length _ _) _ _ _ (by simpa using hk),
    Vector.getElem_toList, storeLe_getD_toNat hfit]

/-- Settles O19: both variants are the rule at their own word width. -/
theorem serializeWritesWordsLittleEndian : Obligations.SerializeWritesWordsLittleEndian :=
  ⟨fun h _ hn => ⟨serialize_length h hn,
      fun _ hk => serialize_getD_toNat h rfl (by decide) hk (by omega)⟩,
    fun h _ hn => ⟨serialize_length h hn,
      fun _ hk => serialize_getD_toNat h rfl (by decide) hk (by omega)⟩⟩

end Sys2Proof.Machine
end

section
/-! PROOF of the statement about exceptions (spec/60_exceptions.md R214): the table of statuses. -/
namespace Sys2Proof.Machine

/-- The first byte of a response tells its status (30_encoding.md R78). -/
theorem statusCode_injective : Function.Injective statusCode := by
  intro st st'
  cases st <;> cases st' <;> decide

theorem okPayload_final_length {s t : State} (h : exec .final s = .next t) (hi : t.Inv)
    (hp : t.phase ≠ .idle) : (okPayload t .final).length = s.diglen.toNat := by
  obtain ⟨hopc, -⟩ | ⟨hopc, -⟩ | ⟨-, hlen, -⟩ | ⟨hopc, -⟩ := okPayload_cases h hi hp
  · cases hopc
  · cases hopc
  · exact hlen
  · cases hopc

/-- A response whose status is not OK is all an error does (60_exceptions.md R218). -/
theorem Effect.frame_of_error {i : Instr} {s t : State} {st : Status} {tail : List Byte}
    (h : Effect s i t) (hrout : t.rout = s.rout ++ statusCode st :: tail) (hst : st ≠ .ok) :
    t = { s with rout := t.rout } := by
  obtain ⟨out, rfl⟩ | ⟨tail', hok⟩ := h.emit_or_ok
  · rfl
  · obtain ⟨h0, -⟩ := List.cons.inj (List.append_cancel_left (hrout.symm.trans hok))
    exact absurd ((statusCode_eq_zero_iff st).mp h0) hst

/-- Settles O44: a well-formed command completes, the status of its one response is the one its
cell names, and what an OK carries is read off the state it leaves. -/
theorem statusByCommandAndPhase : Obligations.StatusByCommandAndPhase := by
  intro i s hi hwf
  obtain ⟨t, h⟩ := exec_next_of_decodePacket (decodePacket_packetOf hwf) hi
  have heff := effect_of_exec h
  obtain ⟨st, payload, hrout, herr, hok⟩ := answers_of_exec h
  obtain ⟨st', tail, hrout', hcell⟩ := effect_statusCell heff
  obtain ⟨hcode, -⟩ := List.cons.inj (List.append_cancel_left (hrout.symm.trans hrout'))
  cases statusCode_injective hcode
  refine ⟨t, st, payload, h, hrout, hcell, fun hst => ?_,
    fun hst => ⟨herr hst, heff.frame_of_error hrout hst⟩⟩
  obtain ⟨hp, rfl⟩ := hok hst
  cases i with
  | final => exact okPayload_final_length h (effect_inv hi heff) hp
  | initB | initS | update | dlen => rfl

end Sys2Proof.Machine
end

section
/-! PROOFS of the statements about reset and runs (spec/70_reset_and_hazards.md R240, R242, R247): what
the engine answers after reset, and how a run over whole packets ends. -/
namespace Sys2Proof.Machine

/-- Settles O52: the reset event writes these three fields. -/
theorem resetEmptiesTheEngine : Obligations.ResetEmptiesTheEngine :=
  ⟨fun left => ⟨left.resetEvent_phase, left.resetEvent_cin, left.resetEvent_rout⟩, rfl, rfl, rfl⟩

/-! ### Runs -/

/-- A run completes when its first step does and the rest of the run completes from there. -/
theorem run_succ_eq_next_iff {M : Host.Core} {n : Nat} {s t : M.State} :
    M.run (n + 1) s = .next t ↔ ∃ s1, M.step s = .next s1 ∧ M.run n s1 = .next t := by
  rw [Host.Core.run]
  cases M.step s <;> simp

/-! ### After reset the registers are not seen (spec/70_reset_and_hazards.md R242) -/

/-- In IDLE the engine reads the streams alone (10_state.md R38). -/
theorem sameUsed_of_idle {s t : State} (hs : s.phase = .idle) (ht : t.phase = .idle)
    (hcin : s.cin = t.cin) (hrout : s.rout = t.rout) : SameUsed s t := by
  refine ⟨hs.trans ht.symm, hcin, hrout, ?_, ?_, ?_, ?_, ?_, ?_, ?_⟩ <;>
    exact fun hp => absurd hs hp

theorem SameUsed.step_next {s t s' t' : State} (h : SameUsed s t) (hs : step s = .next s')
    (ht : step t = .next t') : SameUsed s' t' := by
  have hsame := unusedStateIsNeverRead s t h
  rwa [hs, ht] at hsame

theorem SameUsed.run_next {n : Nat} {s t s' t' : State} (h : SameUsed s t)
    (hs : core.run n s = .next s') (ht : core.run n t = .next t') : SameUsed s' t' := by
  induction n generalizing s t with
  | zero =>
    cases hs
    cases ht
    exact h
  | succ n ih =>
    obtain ⟨s1, hs1, hs⟩ := run_succ_eq_next_iff.mp hs
    obtain ⟨t1, ht1, ht⟩ := run_succ_eq_next_iff.mp ht
    exact ih (h.step_next hs1 ht1) hs ht

/-- Settles O53: the states after the reset event differ only in registers IDLE does not use, and no
step of the run sees the difference. -/
theorem resetHidesTheOldRegisters : Obligations.ResetHidesTheOldRegisters := by
  intro left1 left2 bytes n t1 t2 h1 h2
  have hsame : SameUsed (left1.resetEvent.hostWrite bytes) (left2.resetEvent.hostWrite bytes) :=
    sameUsed_of_idle rfl rfl rfl rfl
  have hend := hsame.run_next h1 h2
  exact ⟨hend.rout, hend.cin, hend.phase⟩

/-! ### Runs over whole packets (spec/70_reset_and_hazards.md R247) -/

/-- With a complete packet at the head of `CIN` one step consumes it, appends its response and keeps
the invariants. -/
theorem step_of_packet {s : State} {k : Packet} {rest : List Byte} (hi : s.Inv)
    (ht : takePacket s.cin = some (k, rest)) :
    ∃ s' r, step s = .next s' ∧ s'.cin = rest ∧ s'.rout = s.rout ++ r ∧ IsResponse k.opc r ∧
      s'.Inv := by
  obtain ⟨s', h⟩ := noStepStops s hi
  obtain ⟨r, hrout, hr⟩ := step_isResponse ht h
  exact ⟨s', r, h, step_cin ht h, hrout, hr, stepKeepsTheInvariants s s' hi h⟩

/-- Settles O55, by induction on the packets: the first step answers the first packet and leaves the
others on `CIN`. -/
theorem runOfPacketsEndsCleanly : Obligations.RunOfPacketsEndsCleanly := by
  intro ks s hks hi hcin
  induction ks generalizing s with
  | nil => exact ⟨s, [], rfl, hcin, (List.append_nil _).symm, .nil, hi⟩
  | cons k ks ih =>
    obtain ⟨hk, hks⟩ := List.forall_mem_cons.mp hks
    have ht : takePacket s.cin = some (k, (ks.map Packet.bytes).flatten) :=
      hcin ▸ takePacket_bytes k _ (Nat.lt_succ_of_le hk)
    obtain ⟨s1, r, hstep, hcin1, hrout1, hr, hi1⟩ := step_of_packet hi ht
    obtain ⟨t, rs, hrun, hcint, hroutt, hrs, hit⟩ := ih s1 hks hi1 hcin1
    have hrout : t.rout = s.rout ++ (r :: rs).flatten := by
      rw [hroutt, hrout1, List.append_assoc, List.flatten_cons]
    exact ⟨t, r :: rs, run_succ_eq_next_iff.mpr ⟨s1, hstep, hrun⟩, hcint, hrout, .cons hr hrs, hit⟩

end Sys2Proof.Machine
end
